-- ==== Sys2Proof/Word.lean ====
section
/-! DEFINITION. The words of the SDC: bytes (codes, characters, packet bytes) and 32-bit millisecond values (00_scope R9). -/

namespace Sys2Proof

/-- A byte: a segment code, a select code, a character or a byte of a command packet. -/
abbrev Byte := BitVec 8

/-- A 32-bit count of milliseconds: a reading of NOW (10_state R35) or a duration (30_encoding R73). -/
abbrev Word32 := BitVec 32

end Sys2Proof
end

