-- ==== Sys2Proof/Syntax.lean ====
section
/-! DEFINITION. The seven commands of spec/opcode_table.json, one constructor each (30_encoding R75). -/

namespace Sys2Proof

/-- A character of a WCHR window and its dot flag (30_encoding R72: CHj and FLj[0]). -/
structure CharCell where
  ch  : Byte
  dot : Bool
  deriving DecidableEq, Repr

/-- A command. The count N of WSEC and WCHR is the length of the list (30_encoding R69, R72). -/
inductive Instr where
  /-- WSEC: replace a section with raw logical codes (30_encoding R69). -/
  | wsec (sec : BitVec 4) (codes : List Byte)
  /-- WCELL: replace one cell with a raw logical code (30_encoding R70). -/
  | wcell (sec : BitVec 4) (idx code : Byte)
  /-- SDOT: set one cell's dot (30_encoding R71). -/
  | sdot (sec : BitVec 4) (idx : Byte) (on : Bool)
  /-- WCHR: encode and write a character window (30_encoding R72). -/
  | wchr (sec : BitVec 4) (chars : List CharCell)
  /-- SHOW: show the buffer for a duration in milliseconds (30_encoding R73). -/
  | showFor (dur : Word32)
  /-- UPDATE (30_encoding R74). -/
  | update
  /-- CLEAR (30_encoding R74). -/
  | clear
  deriving DecidableEq, Repr

end Sys2Proof
end

