-- ==== Sys2Proof/WellFormed.lean ====
section
/-! DEFINITION. Which commands have an encoding: the count N of WSEC and WCHR is one byte (30_encoding R69, R72, R79). -/

namespace Sys2Proof

/-- The command can be written as a packet: a count fits its byte. Every other operand is as wide as its field by type. -/
def Instr.wellFormed : Instr → Bool
  | .wsec _ codes => decide (codes.length ≤ 255)
  | .wcell _ _ _ => true
  | .sdot _ _ _ => true
  | .wchr _ chars => decide (chars.length ≤ 255)
  | .showFor _ => true
  | .update => true
  | .clear => true

end Sys2Proof
end

