-- ==== Sys2Proof/Decode.lean ====
section
/-! DEFINITION. The command packets of 30_encoding R68 to R79: the framing of a byte stream, the decoder, and the encoder. -/

namespace Sys2Proof

/-- What the decoder reads from the bytes the host has offered. -/
inductive Decoded where
  /-- a command, and the bytes after it -/
  | cmd (i : Instr) (rest : List Byte)
  /-- the bytes begin a command whose packet is not complete -/
  | more
  /-- the header's OP is reserved (30_encoding R76) -/
  | reservedOpcode
  /-- a complete packet with a nonzero reserved field (30_encoding R77) -/
  | reservedField
  deriving DecidableEq, Repr

/-- OP, header[7:4] (30_encoding R68). -/
def opField (h : Byte) : BitVec 4 := h.extractLsb' 4 4

/-- S, header[3:0] (30_encoding R68). -/
def secField (h : Byte) : BitVec 4 := h.extractLsb' 0 4

/-- The header byte of an opcode and a section field (30_encoding R68). -/
def header (op sec : BitVec 4) : Byte := op ++ sec

/-- The first `n` bytes and the rest, if there are `n` bytes. -/
def takeBytes : Nat → List Byte → Option (List Byte × List Byte)
  | 0, bs => some ([], bs)
  | _ + 1, [] => none
  | n + 1, b :: bs =>
    match takeBytes n bs with
    | some (xs, rest) => some (b :: xs, rest)
    | none => none

/-- The first `n` (CH, FL) byte pairs and the rest, if there are `n` pairs (30_encoding R72). -/
def takePairs : Nat → List Byte → Option (List (Byte × Byte) × List Byte)
  | 0, bs => some ([], bs)
  | n + 1, c :: f :: bs =>
    match takePairs n bs with
    | some (xs, rest) => some ((c, f) :: xs, rest)
    | none => none
  | _ + 1, _ => none

/-- A flag byte whose bits 7:1 are zero, as SDOT's byte2 and WCHR's FLj must be (30_encoding R77). -/
def flagOk (f : Byte) : Bool := f.extractLsb' 1 7 == 0

/-- The flag byte of a dot state (30_encoding R71, R72). -/
def flagByte (on : Bool) : Byte := if on then 1 else 0

/-- WSEC after its header (30_encoding R69). -/
def decodeWsec (sec : BitVec 4) : List Byte → Decoded
  | [] => .more
  | n :: bs =>
    match takeBytes n.toNat bs with
    | some (codes, rest) => .cmd (.wsec sec codes) rest
    | none => .more

/-- WCELL after its header (30_encoding R70). -/
def decodeWcell (sec : BitVec 4) : List Byte → Decoded
  | idx :: code :: rest => .cmd (.wcell sec idx code) rest
  | _ => .more

/-- SDOT after its header (30_encoding R71, R77). -/
def decodeSdot (sec : BitVec 4) : List Byte → Decoded
  | idx :: f :: rest => if flagOk f then .cmd (.sdot sec idx (f.getLsbD 0)) rest else .reservedField
  | _ => .more

/-- The character and dot flag of a (CH, FL) pair (30_encoding R72, R79). -/
def charCell (p : Byte × Byte) : CharCell := { ch := p.1, dot := p.2.getLsbD 0 }

/-- WCHR after its header (30_encoding R72, R77). -/
def decodeWchr (sec : BitVec 4) : List Byte → Decoded
  | [] => .more
  | n :: bs =>
    match takePairs n.toNat bs with
    | some (ps, rest) =>
      if ps.all (fun p => flagOk p.2) then .cmd (.wchr sec (ps.map charCell)) rest else .reservedField
    | none => .more

/-- SHOW after its header: DUR little-endian (30_encoding R73, R77). -/
def decodeShow (sec : BitVec 4) : List Byte → Decoded
  | d0 :: d1 :: d2 :: d3 :: rest =>
    if sec == 0 then .cmd (.showFor (d3 ++ d2 ++ d1 ++ d0)) rest else .reservedField
  | _ => .more

/-- UPDATE and CLEAR after their header: no payload (30_encoding R74, R77). -/
def decodeBare (i : Instr) (sec : BitVec 4) (rest : List Byte) : Decoded :=
  if sec == 0 then .cmd i rest else .reservedField

/-- The decoder: the opcode map of 30_encoding R75, total on any bytes. A reserved field is refused when the packet it stands in
is complete (log entry 6). -/
def decode : List Byte → Decoded
  | [] => .more
  | h :: bs =>
    match (opField h).toNat with
    | 1 => decodeWsec (secField h) bs
    | 2 => decodeWcell (secField h) bs
    | 3 => decodeSdot (secField h) bs
    | 4 => decodeWchr (secField h) bs
    | 8 => decodeShow (secField h) bs
    | 9 => decodeBare .update (secField h) bs
    | 10 => decodeBare .clear (secField h) bs
    | _ => .reservedOpcode

/-- The length in bytes of the command that a byte stream begins (30_encoding R78); `none` where the header's OP is reserved or
the bytes that give the length are not there. -/
def commandLength : List Byte → Option Nat
  | [] => none
  | h :: bs =>
    match (opField h).toNat with
    | 1 => bs.head?.map (fun n => 2 + n.toNat)
    | 2 => some 3
    | 3 => some 3
    | 4 => bs.head?.map (fun n => 2 + 2 * n.toNat)
    | 8 => some 5
    | 9 => some 1
    | 10 => some 1
    | _ => none

/-- The payload bytes of one WCHR position (30_encoding R72). -/
def charBytes (c : CharCell) : List Byte := [c.ch, flagByte c.dot]

/-- The encoder: the packet of a well-formed command (30_encoding R69 to R74). -/
def encode : Instr → List Byte
  | .wsec sec codes => header 1 sec :: BitVec.ofNat 8 codes.length :: codes
  | .wcell sec idx code => [header 2 sec, idx, code]
  | .sdot sec idx on => [header 3 sec, idx, flagByte on]
  | .wchr sec chars => header 4 sec :: BitVec.ofNat 8 chars.length :: chars.flatMap charBytes
  | .showFor dur =>
    [header 8 0, dur.extractLsb' 0 8, dur.extractLsb' 8 8, dur.extractLsb' 16 8, dur.extractLsb' 24 8]
  | .update => [header 9 0]
  | .clear => [header 10 0]

/-- The longest command, in bytes (30_encoding R78). -/
def maxCommandBytes : Nat := 512

/-- The low `k` bytes of `w`, least significant first: the opcode table numbers a packet's bits from the first byte's bit 0. -/
def lowBytes : Nat → Nat → List Byte
  | 0, _ => []
  | k + 1, w => BitVec.ofNat 8 w :: lowBytes k (w / 256)

/-- The packet the opcode table's word stands for: its bytes in order and, above `nbits`, zero bytes up to the command's own length
(30_encoding R78), so that nothing follows it. -/
def tablePacket (nbits w : Nat) : List Byte :=
  let given := lowBytes ((nbits + 7) / 8) w
  match commandLength (given ++ [0, 0]) with
  | some n => given.take n ++ List.replicate (n - given.length) 0
  | none => given

/-- The command the decoder reads from a word of spec/opcode_table.json, bit 0 the first byte's least significant bit. -/
def decodeTableWord (nbits w : Nat) : Option Instr :=
  match decode (tablePacket nbits w) with
  | .cmd i _ => some i
  | _ => none

end Sys2Proof
end

