-- ==== Sys2Proof/Machine/Memory.lean ====
section
/-! DEFINITION. The cell space (20_memory R37) as a list of (index, byte) entries in one canonical form: indices strictly rising, no
entry equal to what an unlisted index reads as. That value, the stored blank COMMIT(0x00) (10_state R27), is the argument `blank`. -/

namespace Sys2Proof.Machine

/-- The cells that do not hold the blank, in rising order of their index. -/
abbrev Memory := List Host.Cell

/-- The byte at an index: the listed one, else the blank. -/
def Memory.read (blank : Byte) : Memory → Nat → Byte
  | [], _ => blank
  | (k, b) :: m, a => if k = a then b else Memory.read blank m a

/-- Put a byte at an index: the entry goes to its place in the order, and no entry is made for the blank. -/
def Memory.write (blank : Byte) : Memory → Nat → Byte → Memory
  | [], a, v => if v = blank then [] else [(a, v)]
  | (k, b) :: m, a, v =>
    if a < k then (if v = blank then (k, b) :: m else (a, v) :: (k, b) :: m)
    else if a = k then (if v = blank then m else (a, v) :: m)
    else (k, b) :: Memory.write blank m a v

/-- Put bytes at consecutive indices from `a` on, in order. -/
def Memory.writeAll (blank : Byte) : Memory → Nat → List Byte → Memory
  | m, _, [] => m
  | m, a, v :: vs => Memory.writeAll blank (Memory.write blank m a v) (a + 1) vs

/-- The canonical form: every index is at least `lo` and below `len`, indices strictly rise, no entry holds the blank. -/
def Memory.wfFrom (blank : Byte) (len : Nat) : Nat → Memory → Bool
  | _, [] => true
  | lo, (k, b) :: m => decide (lo ≤ k) && decide (k < len) && (b != blank) && Memory.wfFrom blank len (k + 1) m

/-- The canonical form of the cell space `0 .. len - 1`. -/
def Memory.wf (blank : Byte) (len : Nat) (m : Memory) : Bool := Memory.wfFrom blank len 0 m

end Sys2Proof.Machine
end

