-- ==== Sys2Proof/Config.lean ====
section
/-! DEFINITION. The SDC's configuration parameters (00_scope R7), the registers they are loaded into (10_state R15 to R24),
and the free values of the spec (93 I13 to I18). -/

namespace Sys2Proof

/-- POLARITY (10_state R16): 0 = CATHODE, 1 = ANODE. -/
inductive Polarity where
  | cathode
  | anode
  deriving DecidableEq, Repr

/-- DRIVE_MODE (10_state R17): 0 = MUX, 1 = STATIC. -/
inductive DriveMode where
  | mux
  | static
  deriving DecidableEq, Repr

/-- BIT_ORDER (10_state R22): 0 = MSB_FIRST, 1 = LSB_FIRST. -/
inductive BitOrder where
  | msbFirst
  | lsbFirst
  deriving DecidableEq, Repr

/-- A section: the cells `start .. start + len - 1` (10_state R18, R19: SEC_BEGIN[s] and SEC_LEN[s]). -/
structure Section where
  start : Nat
  len   : Nat
  deriving DecidableEq, Repr

/-- A custom select-code table (30_encoding R64): wire bytes. -/
structure SelectTable where
  sel     : List Byte
  selNone : Byte
  deriving DecidableEq, Repr

/-- The configuration inputs, sampled at reset release (10_state R15; the parameters of 00_scope R7 but for the glyph ROM). -/
structure ConfigInputs where
  polarity    : Polarity
  driveMode   : DriveMode
  maxCells    : Nat
  /-- SEC_REQ: the requested section lengths. -/
  secReq      : List Nat
  /-- The custom select-code table; `none` takes the default of 30_encoding R65 and R66. -/
  customSel   : Option SelectTable
  swapped     : Bool
  bitOrder    : BitOrder
  clearBefore : Bool
  tCellMs     : BitVec 16
  tFrameMs    : BitVec 16
  deriving DecidableEq, Repr

/-- The configuration registers (10_state R24), read-only after reset. NSEC is the length of `sections`:
SEC_BEGIN[s] and SEC_LEN[s] do not exist for s >= NSEC (10_state R19). -/
structure Registers where
  polarity    : Polarity
  driveMode   : DriveMode
  maxCells    : Nat
  sections    : List Section
  /-- L, the display length. -/
  dispLen     : Nat
  sel         : List Byte
  selNone     : Byte
  swapped     : Bool
  bitOrder    : BitOrder
  clearBefore : Bool
  tCellMs     : BitVec 16
  tFrameMs    : BitVec 16
  deriving DecidableEq, Repr

/-- NSEC (10_state R19). -/
def Registers.nsec (r : Registers) : Nat := r.sections.length

/-- GLYPH (10_state R23, R24): the read-only table of 256 bytes from a character byte to its logical code, held as the entries that
are not blank, by rising character. -/
abbrev GlyphTable := List (Nat × Byte)

/-- FREE VALUE (log entry 3). The milliseconds that pass between read n of Now() and the read before it, where the environment
has not chosen them (10_state R35; 93 I13 to I15). Safe: nothing constrains it, so a claim holds for every timing. -/
opaque Config.nowAdvance : Nat → Nat

/-- FREE VALUE (log entry 11). What the external device's outputs show before the first frame (10_state R33, 93 I16). Safe. -/
opaque Config.powerUpDisplay : List Byte

/-- FREE VALUE (log entry 11). The shift stages before the first frame or after a frame cut by reset, when the SDC has sent the given
number of Emit and Latch events (70_reset R165, 93 I18). Safe. -/
opaque Config.shiftMix : Nat → List Byte

/-- The configuration inputs at State.reset (log entry 1). The spec gives MAX_CELLS 8, SWAPPED 0, MSB_FIRST, CLEAR_BEFORE 0,
T_FRAME_MS 0 and the default select table; CATHODE, MUX, one section of MAX_CELLS cells and T_CELL_MS 1 are a DESIGN CHOICE, unsafe:
a claim about State.reset alone is about this configuration. -/
def Config.defaultInputs : ConfigInputs where
  polarity := .cathode
  driveMode := .mux
  maxCells := 8
  secReq := [8]
  customSel := none
  swapped := false
  bitOrder := .msbFirst
  clearBefore := false
  tCellMs := 1
  tFrameMs := 0

end Sys2Proof
end

