-- ==== Sys2Proof/Machine/Encoder.lean ====
section
/-! DEFINITION. The seven-segment encoder: the reference glyph table (30_encoding R56 to R62), ENC and COMMIT (40_encoder R85 to R89),
and the digit decoding used by claims (40_encoder R91). -/

namespace Sys2Proof.Machine

/-- BLANK, nothing lit (30_encoding R56). -/
def blankCode : Byte := 0x00

/-- DOT, the dot alone (30_encoding R53, R56). -/
def dotCode : Byte := 0x01

/-- MINUS, segment g (30_encoding R56). -/
def minusCode : Byte := 0x02

/-- The glyphs of the digits 0 to 9 (30_encoding R57). -/
def digitGlyphs : List Byte := [0xFC, 0x60, 0xDA, 0xF2, 0x66, 0xB6, 0xBE, 0xE0, 0xFE, 0xF6]

/-- The glyphs of the letters A to Z (30_encoding R61). -/
def letterGlyphs : List Byte :=
  [0xEE, 0x3E, 0x9C, 0x7A, 0x9E, 0x8E, 0xBC, 0x6E, 0x0C, 0x78, 0xAE, 0x1C, 0xA8,
   0x2A, 0x3A, 0xCE, 0xE6, 0x0A, 0xB6, 0x1E, 0x7C, 0x38, 0x54, 0x6E, 0x76, 0xDA]

/-- The reference GLYPH function on a character's number, as the spec writes it (30_encoding R59, R60). -/
def referenceGlyphAt (c : Nat) : Byte :=
  if 0x30 ≤ c ∧ c ≤ 0x39 then digitGlyphs.getD (c - 0x30) blankCode
  else if 0x41 ≤ c ∧ c ≤ 0x5A then letterGlyphs.getD (c - 0x41) blankCode
  else if 0x61 ≤ c ∧ c ≤ 0x7A then letterGlyphs.getD (c - 0x61) blankCode
  else if c = 0x2D then minusCode
  else blankCode

/-- Table entries for consecutive characters. -/
def entriesFrom : Nat → List Byte → GlyphTable
  | _, [] => []
  | c, v :: vs => (c, v) :: entriesFrom (c + 1) vs

/-- The reference glyph table as the ROM's contents (10_state R23; 30_encoding R57, R59, R61). -/
def referenceGlyphs : GlyphTable :=
  (0x2D, minusCode) :: (entriesFrom 0x30 digitGlyphs ++ (entriesFrom 0x41 letterGlyphs ++ entriesFrom 0x61 letterGlyphs))

/-- GLYPH(c): the ROM read at a character byte (10_state R23). -/
def glyphOf (g : GlyphTable) (c : Byte) : Byte := Memory.read blankCode g c.toNat

/-- Bit 0 of every glyph is zero (00_scope R8), and the ROM's list is in its canonical form. -/
def glyphsOk (g : GlyphTable) : Bool := g.all (fun e => !e.2.getLsbD 0) && Memory.wf blankCode 256 g

/-- ENC(c, dot) = GLYPH(c) | (dot ? DOT : BLANK) (40_encoder R86). -/
def enc (g : GlyphTable) (x : CharCell) : Byte := glyphOf g x.ch ||| (if x.dot then dotCode else blankCode)

/-- COMMIT, the one polarity stage (40_encoder R88). -/
def commit (p : Polarity) (v : Byte) : Byte :=
  match p with
  | .cathode => v
  | .anode => ~~~v

/-- The stored value of a dot's logical state (41_buffer R96: ON ^ (POLARITY = ANODE)). -/
def commitDot (p : Polarity) (on : Bool) : Bool :=
  match p with
  | .cathode => on
  | .anode => !on

/-- DECODE_DIGIT(v): the digit whose glyph is `v` without its dot, if there is one (40_encoder R91). For claims only: the block does
not contain it. -/
def decodeDigit (g : GlyphTable) (v : Byte) : Option Nat :=
  (List.range 10).find? (fun d => glyphOf g (BitVec.ofNat 8 (0x30 + d)) == (v &&& 0xFE))

end Sys2Proof.Machine
end

