-- ==== Sys2Proof/Machine/Sections.lean ====
section
/-! DEFINITION. What reset release computes from the configuration inputs: validity (00_scope R8), the section table (10_state R18)
and the select codes (30_encoding R64 to R66). -/

namespace Sys2Proof.Machine

/-- Section derivation from a first free cell on (10_state R18): the section crossing the cap is truncated and later ones dropped. -/
def deriveSections (cap : Nat) : Nat → List Nat → List Section
  | _, [] => []
  | start, n :: rest =>
    if cap ≤ start then []
    else { start := start, len := min n (cap - start) } :: deriveSections cap (start + min n (cap - start)) rest

/-- L, the display length: the lengths of the sections kept (10_state R18, R20). -/
def sectionsLength (secs : List Section) : Nat := (secs.map (fun r => r.len)).sum

/-- The default select table: one-hot with cell 0 on bit 7, inverted for CATHODE (30_encoding R65). -/
def defaultSel (p : Polarity) (cells : Nat) : List Byte :=
  (List.range cells).map (fun i =>
    match p with
    | .cathode => ~~~((0x80 : Byte) >>> i)
    | .anode => (0x80 : Byte) >>> i)

/-- The default SEL_NONE, which selects no digit (30_encoding R66). -/
def defaultSelNone (p : Polarity) : Byte :=
  match p with
  | .cathode => 0xFF
  | .anode => 0x00

/-- The select table that is loaded: the custom one as given, else the default (30_encoding R64 to R66). -/
def selectTable (c : ConfigInputs) : SelectTable :=
  match c.customSel with
  | some t => t
  | none => { sel := defaultSel c.polarity c.maxCells, selNone := defaultSelNone c.polarity }

/-- A valid configuration (00_scope R8), with T_CELL_MS at least 1 (00_scope R7, 10_state R24; log entry 7). -/
def configValid (c : ConfigInputs) (g : GlyphTable) : Bool :=
  decide (1 ≤ c.maxCells ∧ c.maxCells ≤ 8) &&
  decide (1 ≤ c.secReq.length ∧ c.secReq.length ≤ 16) &&
  c.secReq.all (fun n => decide (1 ≤ n ∧ n ≤ 255)) &&
  (match c.driveMode with
   | .mux => (selectTable c).sel.length == c.maxCells
   | .static => true) &&
  decide (1 ≤ c.tCellMs.toNat) &&
  glyphsOk g

/-- The configuration registers that reset release loads (10_state R15, R18). -/
def loadRegisters (c : ConfigInputs) : Registers where
  polarity := c.polarity
  driveMode := c.driveMode
  maxCells := c.maxCells
  sections := deriveSections c.maxCells 0 c.secReq
  dispLen := sectionsLength (deriveSections c.maxCells 0 c.secReq)
  sel := (selectTable c).sel
  selNone := (selectTable c).selNone
  swapped := c.swapped
  bitOrder := c.bitOrder
  clearBefore := c.clearBefore
  tCellMs := c.tCellMs
  tFrameMs := c.tFrameMs

end Sys2Proof.Machine
end

