-- ==== Sys2Proof/Machine/State.lean ====
section
/-! DEFINITION. The state of the SDC (10_state.md), its reset value, and the reasons a step can stop. -/

namespace Sys2Proof.Machine

/-- What the command processor is busy with while CP = BUSY (10_state R29). -/
inductive Activity where
  /-- waiting for the payload of a command whose bytes so far are `got` (30_encoding R67, R68) -/
  | payload (got : List Byte)
  /-- a multiplexed burst, about to evaluate the guard of its next pass (42_scanner R110) -/
  | guard
  /-- a multiplexed burst, about to send the frame of cell SCAN_I (42_scanner R110) -/
  | drive
  /-- a multiplexed burst, in the slice of cell SCAN_I since the read `t0` (42_scanner R109, R110) -/
  | slice (t0 : Word32)
  /-- a static SHOW, in its hold of `dur` milliseconds since the read `t0` (43_static R124, 42_scanner R109) -/
  | hold (t0 dur : Word32)
  deriving DecidableEq, Repr

/-- CP, the command processor state (10_state R29). -/
inductive CP where
  | ready
  | busy (a : Activity)
  deriving DecidableEq, Repr

/-- DRV, the driver state (10_state R30). -/
inductive Drv where
  | idle
  | scanning
  deriving DecidableEq, Repr

/-- The reset input (70_reset R164, R165). It may be asserted between any two events, so an assertion says how many events of the
coming step still happen before it cuts in (log entry 4). -/
inductive ResetInput where
  | released
  | asserted (after : Nat)
  deriving DecidableEq, Repr

/-- An entry of the event trace (10_state R34): Emit and Latch, each read of Now(), and where reset cut in (log entry 10). -/
inductive Event where
  | emit (b : Byte) (order : BitOrder)
  | latch
  | now (t : Word32)
  | reset
  deriving DecidableEq, Repr

/-- The state of the SDC with the inputs a step reads. -/
structure State where
  /-- the configuration registers (10_state R24) -/
  cfg     : Registers
  /-- GLYPH, the glyph ROM (10_state R23) -/
  glyph   : GlyphTable
  /-- CELL[0..L-1] (10_state R25); an unlisted cell holds the stored blank -/
  cells   : Memory
  /-- CP (10_state R29) -/
  cp      : CP
  /-- DRV (10_state R30) -/
  drv     : Drv
  /-- SCAN_T0 (10_state R31) -/
  scanT0  : Word32
  /-- SCAN_DUR (10_state R31) -/
  scanDur : Word32
  /-- SCAN_I (10_state R31) -/
  scanI   : Nat
  /-- the bytes the host holds on the command port, first one next (30_encoding R67, 60_exceptions R163) -/
  port    : List Byte
  /-- the reset input (70_reset R164) -/
  resetIn : ResetInput
  /-- reset has been asserted and not yet released (70_reset R164) -/
  inReset : Bool
  /-- the configuration inputs (10_state R15) -/
  cfgIn   : ConfigInputs
  /-- the time advances chosen for the next reads of Now(), the model's own (log entry 3) -/
  timeIn  : List Nat
  /-- the milliseconds of which NOW is the low 32 bits (10_state R35; log entry 3) -/
  clock   : Nat
  /-- the number of reads of Now() that drew a free value, the model's own (log entry 3) -/
  draws   : Nat
  /-- the event trace, oldest first (10_state R34) -/
  trace   : List Event
  deriving DecidableEq, Repr

/-- The SDC raises no fault of its own (60_exceptions R149); these are the model's, for accesses that name nothing. -/
inductive Fault where
  /-- Raised by State.readCell (Operands) and writeCell (Ops) for an index `a >= L`, which names no cell (10_state R25). Safe: the machine stops, and
  no state that meets State.Inv gets here. -/
  | noSuchCell (a : Nat)
  /-- Raised by State.selectCode (Operands) for a select code that does not exist (10_state R21). Safe, as above. -/
  | noSelectCode (i : Nat)
  deriving DecidableEq, Repr

/-- The model-level refusals (60_exceptions R151), and the stub reason of an unmodelled instruction. -/
inductive Refusal where
  /-- Raised by exec for an instruction without a meaning; no instruction of this model is. Safe. -/
  | notModelled (mnemonic : String)
  /-- Raised by Port.accept: a header with a reserved OP (30_encoding R76). Safe: no claim about such a run is provable. -/
  | reservedOpcode
  /-- Raised by Port.accept: a nonzero reserved field (30_encoding R77). Safe. -/
  | reservedField
  /-- Raised by ResetControl.releaseReset: a configuration that fails 00_scope R8. Safe. -/
  | invalidConfig
  deriving DecidableEq, Repr

/-- The outcome of a step or of a meaning. -/
abbrev Outcome := Host.Outcome State Fault Refusal

/-- The machine right after reset (10_state R36, 70_reset R164), with the configuration inputs `c` and the glyph ROM `g`: registers
loaded, sections derived, every cell blank, DRV idle, CP ready. The scan registers are unspecified and never read before written;
they hold 0 (log entry 2). No byte is on the port, the reset input is released, no event has happened (70_reset R166), and the
time is 0 (log entry 3). -/
def State.resetWith (c : ConfigInputs) (g : GlyphTable) : State where
  cfg := loadRegisters c
  glyph := g
  cells := []
  cp := .ready
  drv := .idle
  scanT0 := 0
  scanDur := 0
  scanI := 0
  port := []
  resetIn := .released
  inReset := false
  cfgIn := c
  timeIn := []
  clock := 0
  draws := 0
  trace := []

/-- The machine right after reset, with the configuration of log entry 1 and the reference glyph table. -/
def State.reset : State := State.resetWith Config.defaultInputs referenceGlyphs

end Sys2Proof.Machine
end

