-- ==== Sys2Proof/Machine/Ops.lean ====
section
/-! DEFINITION. The named operations on the SDC's state: one update per piece of state, the cell buffer (00_scope R10), frames and
time (00_scope R11). The SDC takes no exception, so there is no operation that enters or leaves one (60_exceptions R149, R154, R155). -/

namespace Sys2Proof.Machine

/-! ### Updates, one per piece of state -/

/-- Write the cell buffer. -/
def State.setCells (s : State) (m : Memory) : State := { s with cells := m }

/-- Write CP. -/
def State.setCp (s : State) (c : CP) : State := { s with cp := c }

/-- Write DRV. -/
def State.setDrv (s : State) (d : Drv) : State := { s with drv := d }

/-- Write SCAN_T0 and SCAN_DUR. -/
def State.setScan (s : State) (t0 dur : Word32) : State := { s with scanT0 := t0, scanDur := dur }

/-- Write SCAN_I. -/
def State.setScanI (s : State) (i : Nat) : State := { s with scanI := i }

/-- The bytes left on the command port. -/
def State.setPort (s : State) (bs : List Byte) : State := { s with port := bs }

/-- Record events on the trace (10_state R34). -/
def State.addEvents (s : State) (es : List Event) : State := { s with trace := s.trace ++ es }

/-- The time input's part of a read of Now(): the advances left, the time reached, the free values drawn. -/
def State.setTime (s : State) (ahead : List Nat) (clock draws : Nat) : State :=
  { s with timeIn := ahead, clock := clock, draws := draws }

/-! ### The cell buffer -/

/-- The stored blank, COMMIT(0x00) (10_state R27). -/
def State.blank (s : State) : Byte := commit s.cfg.polarity blankCode

/-- CELL[a] for an index that names a cell (00_scope R10). -/
def State.cell (s : State) (a : Nat) : Byte := Memory.read s.blank s.cells a

/-- CELL[a] <- v (00_scope R10). An index `a >= L` names no cell (10_state R25). -/
def writeCell (a : Nat) (v : Byte) (s : State) : Outcome :=
  if a < s.cfg.dispLen then .next (s.setCells (Memory.write s.blank s.cells a v)) else .fault (.noSuchCell a)

/-- CELL[a + j] <- v[j] for each j in order (41_buffer R94, R97). -/
def writeRun : Nat → List Byte → State → Outcome
  | _, [], s => .next s
  | a, v :: vs, s =>
    match writeCell a v s with
    | .next t => writeRun (a + 1) vs t
    | .fault r => .fault r
    | .refused r => .refused r

/-! ### Frames (00_scope R11, 30_encoding R80, R81) -/

/-- The events of Frame([b1, ..., bn]): n emits in the configured bit order, then one latch. -/
def frameEvents (order : BitOrder) (bytes : List Byte) : List Event :=
  bytes.map (fun b => Event.emit b order) ++ [Event.latch]

/-- Frame(bytes). -/
def State.sendFrame (s : State) (bytes : List Byte) : State := s.addEvents (frameEvents s.cfg.bitOrder bytes)

/-- The bits of one Emit(b) in the order they leave (30_encoding R81). -/
def emitBits (order : BitOrder) (b : Byte) : List Bool :=
  match order with
  | .msbFirst => (List.range 8).map (fun k => b.getLsbD (7 - k))
  | .lsbFirst => (List.range 8).map (fun k => b.getLsbD k)

/-! ### Time (10_state R35, 42_scanner R109) -/

/-- The milliseconds that pass before the next read of Now(): what the environment has chosen, else a free value (log entry 3). -/
def State.nextAdvance (s : State) : Nat :=
  match s.timeIn with
  | a :: _ => a
  | [] => Config.nowAdvance s.draws

/-- The time at the next read of Now(). -/
def State.nextClock (s : State) : Nat := s.clock + s.nextAdvance

/-- What the next read of Now() gives: NOW is a 32-bit count (10_state R35). -/
def State.now (s : State) : Word32 := BitVec.ofNat 32 s.nextClock

/-- The state after a read of Now(), the read recorded on the trace (10_state R34). -/
def State.afterNow (s : State) : State :=
  (s.setTime s.timeIn.tail s.nextClock (if s.timeIn.isEmpty then s.draws + 1 else s.draws)).addEvents [Event.now s.now]

/-- Elapsed milliseconds from one read to a later one, mod 2^32 (10_state R35). -/
def elapsed (t0 t : Word32) : Nat := (t - t0).toNat

/-! ### The command port (30_encoding R67) -/

/-- CMD_READY as the coming step finds it: high in READY and while the block waits for payload; low while reset is asserted, where no
command is accepted (70_reset R164). A reset that cuts in only after some events of the step has not been asserted yet. -/
def State.cmdReady (s : State) : Bool :=
  !s.inReset && decide (s.resetIn ≠ .asserted 0) &&
  (match s.cp with
   | .ready => true
   | .busy (.payload _) => true
   | _ => false)

end Sys2Proof.Machine
end

