-- ==== Sys2Proof/Machine/Operands.lean ====
section
/-! DEFINITION. The operand forms: a section and relative index as a cell (20_memory R38), the address checks (41_buffer R93), and the
frames that the output commands send (42_scanner R105, R106; 43_static R121, R122). -/

namespace Sys2Proof.Machine

/-- The section a 4-bit index names, if it is valid (10_state R19). -/
def State.sectionAt (s : State) (sec : BitVec 4) : Option Section := s.cfg.sections[sec.toNat]?

/-- ADDR_OK(s, i) (41_buffer R93). -/
def State.addrOk (s : State) (sec : BitVec 4) (idx : Byte) : Bool :=
  match s.sectionAt sec with
  | some r => decide (idx.toNat < r.len)
  | none => false

/-- SEC_OK(s, N) (41_buffer R93). -/
def State.secOk (s : State) (sec : BitVec 4) (n : Nat) : Bool :=
  match s.sectionAt sec with
  | some r => n == r.len
  | none => false

/-- SEC_BEGIN[s] of a valid section (20_memory R38). -/
def State.secBegin (s : State) (sec : BitVec 4) : Nat :=
  match s.sectionAt sec with
  | some r => r.start
  | none => 0

/-- The absolute cell SEC_BEGIN[s] + i (20_memory R38). -/
def State.cellIndex (s : State) (sec : BitVec 4) (idx : Byte) : Nat := s.secBegin sec + idx.toNat

/-- SEL[i] (10_state R21); a select code past the table does not exist. -/
def State.selectCode (s : State) (i : Nat) : Except Fault Byte :=
  match s.cfg.sel[i]? with
  | some b => .ok b
  | none => .error (.noSelectCode i)

/-- CELL[a] for a frame; an index `a >= L` names no cell (10_state R25). -/
def State.readCell (s : State) (a : Nat) : Except Fault Byte :=
  if a < s.cfg.dispLen then .ok (s.cell a) else .error (.noSuchCell a)

/-- A select byte and a segment byte in the order SWAPPED names (42_scanner R105). -/
def State.muxPair (s : State) (select segment : Byte) : List Byte :=
  if s.cfg.swapped then [segment, select] else [select, segment]

/-- CELL_FRAME(i) (42_scanner R105). -/
def State.cellFrame (s : State) (i : Nat) : Except Fault (List Byte) :=
  match s.readCell i, s.selectCode i with
  | .ok v, .ok e => .ok (s.muxPair e v)
  | .error r, _ => .error r
  | .ok _, .error r => .error r

/-- CLEAR_FRAME_MUX (42_scanner R106). -/
def State.clearFrameMux (s : State) : List Byte := s.muxPair s.cfg.selNone s.blank

/-- STATIC_FRAME: the whole buffer, cell L-1 first (43_static R121). -/
def State.staticFrame (s : State) : List Byte := ((List.range s.cfg.dispLen).map s.cell).reverse

/-- CLEAR_FRAME_STATIC: L stored blanks (43_static R122). -/
def State.clearFrameStatic (s : State) : List Byte := List.replicate s.cfg.dispLen s.blank

/-- T_PASS = L * (T_CELL_MS + T_FRAME_MS), an unbounded integer (42_scanner R107). -/
def State.tPass (s : State) : Nat := s.cfg.dispLen * (s.cfg.tCellMs.toNat + s.cfg.tFrameMs.toNat)

end Sys2Proof.Machine
end

