-- ==== Sys2Proof/Machine/Flags.lean ====
section
/-! DEFINITION. The SDC has no condition flags, no status register and no return value (00_scope R14), so no flag computation stands
here. The one comparison that steers the sequencer is the guard of a multiplexed burst (42_scanner R110, R113). -/

namespace Sys2Proof.Machine

/-- The guard's comparison on unbounded integers: a pass would end past SCAN_DUR if it began at the read `t` (42_scanner R110). -/
def State.passOverruns (s : State) (t : Word32) : Bool := decide (s.scanDur.toNat < elapsed s.scanT0 t + s.tPass)

end Sys2Proof.Machine
end

