-- ==== Sys2Proof/Machine/Buffer.lean ====
section
/-! DEFINITION. The display-buffer commands: WSEC, WCELL, SDOT, WCHR (41_buffer.md). A failing address check is a noop (41_buffer R93);
none of them emits a frame (R98) and none depends on the drive mode (R104). -/

namespace Sys2Proof.Machine

/-- WSEC: replace a section with raw logical codes (41_buffer R94). -/
def execWsec (sec : BitVec 4) (codes : List Byte) (s : State) : Outcome :=
  if s.secOk sec codes.length then writeRun (s.secBegin sec) (codes.map (commit s.cfg.polarity)) s else .next s

/-- WCELL: replace one cell with a raw logical code (41_buffer R95). -/
def execWcell (sec : BitVec 4) (idx code : Byte) (s : State) : Outcome :=
  if s.addrOk sec idx then writeCell (s.cellIndex sec idx) (commit s.cfg.polarity code) s else .next s

/-- A stored code with its dot bit, bit 0, replaced and bits 7:1 kept (41_buffer R96). -/
def withDot (v : Byte) (bit : Bool) : Byte := v.extractLsb' 1 7 ++ BitVec.ofBool bit

/-- SDOT: set, not flip, one cell's dot (41_buffer R96). -/
def execSdot (sec : BitVec 4) (idx : Byte) (on : Bool) (s : State) : Outcome :=
  if s.addrOk sec idx then
    writeCell (s.cellIndex sec idx) (withDot (s.cell (s.cellIndex sec idx)) (commitDot s.cfg.polarity on)) s
  else .next s

/-- WCHR: encode a character window and replace a section with it (41_buffer R97, 40_encoder R87). -/
def execWchr (sec : BitVec 4) (chars : List CharCell) (s : State) : Outcome :=
  if s.secOk sec chars.length then
    writeRun (s.secBegin sec) (chars.map (fun x => commit s.cfg.polarity (enc s.glyph x))) s
  else .next s

end Sys2Proof.Machine
end

