-- ==== Sys2Proof/Machine/Latcher.lean ====
section
/-! DEFINITION. The static latcher (43_static.md): UPDATE, SHOW and CLEAR in STATIC mode. DRV stays IDLE (43_static R124, R129). -/

namespace Sys2Proof.Machine

/-- UPDATE in STATIC mode (43_static R123). -/
def updateStatic (s : State) : State := s.sendFrame s.staticFrame

/-- SHOW in STATIC mode up to its hold (43_static R124): the frame is sent, and the hold begins with a read of Now(). -/
def startHold (dur : Word32) (s : State) : State :=
  (s.sendFrame s.staticFrame).afterNow.setCp (.busy (.hold (s.sendFrame s.staticFrame).now dur))

/-- One poll of the hold (43_static R124, 42_scanner R109): hold on, or send the clear frame and complete. -/
def holdStep (t0 dur : Word32) (s : State) : Outcome :=
  if dur.toNat ≤ elapsed t0 s.now then .next ((s.afterNow.sendFrame s.clearFrameStatic).setCp .ready) else .next s.afterNow

/-- CLEAR in STATIC mode (43_static R125). -/
def clearStatic (s : State) : State := s.sendFrame s.clearFrameStatic

end Sys2Proof.Machine
end

