-- ==== Sys2Proof/Machine/Scanner.lean ====
section
/-! DEFINITION. The multiplexed scanner (42_scanner.md): the burst of SHOW, one operation for each statement of R110's pseudocode, and
CLEAR and UPDATE in MUX mode. -/

namespace Sys2Proof.Machine

/-- SHOW in MUX mode up to its first guard (42_scanner R110, R108): SCAN_T0 and SCAN_DUR are set, DRV goes to SCANNING, and the
leading clear frame is sent if CLEAR_BEFORE = 1. CP stays BUSY for the burst. -/
def startBurst (dur : Word32) (s : State) : State :=
  let t := ((s.afterNow.setScan s.now dur).setDrv .scanning).setCp (.busy .guard)
  if s.cfg.clearBefore then t.sendFrame t.clearFrameMux else t

/-- The end of a burst: the clear frame, DRV IDLE, CP READY (42_scanner R110). -/
def endBurst (s : State) : State := ((s.sendFrame s.clearFrameMux).setDrv .idle).setCp .ready

/-- The guard before a pass (42_scanner R110, R113): end the burst, or begin a pass at cell 0. -/
def guardStep (s : State) : Outcome :=
  if s.passOverruns s.now then .next (endBurst s.afterNow) else .next ((s.afterNow.setScanI 0).setCp (.busy .drive))

/-- Send the frame of cell SCAN_I, and begin its slice with the read that SleepAtLeast starts with (42_scanner R105, R109, R110). -/
def driveStep (s : State) : Outcome :=
  match s.cellFrame s.scanI with
  | .ok bytes => .next ((s.sendFrame bytes).afterNow.setCp (.busy (.slice (s.sendFrame bytes).now)))
  | .error r => .fault r

/-- One poll of the slice's wait (42_scanner R109): wait on, or go to the next cell, or after the last cell to the next guard. -/
def sliceStep (t0 : Word32) (s : State) : Outcome :=
  if s.cfg.tCellMs.toNat ≤ elapsed t0 s.now then
    if s.scanI + 1 < s.cfg.dispLen then .next ((s.afterNow.setScanI (s.scanI + 1)).setCp (.busy .drive))
    else .next (s.afterNow.setCp (.busy .guard))
  else .next s.afterNow

/-- CLEAR in MUX mode (42_scanner R111). -/
def clearMux (s : State) : State := s.sendFrame s.clearFrameMux

end Sys2Proof.Machine
end

