-- ==== Sys2Proof/Machine/Output.lean ====
section
/-! DEFINITION. The output commands SHOW, UPDATE and CLEAR, each in both drive modes (10_state R17). -/

namespace Sys2Proof.Machine

/-- SHOW: begin the burst (42_scanner R110) or the hold (43_static R124). CP is BUSY until it ends. -/
def execShow (dur : Word32) (s : State) : Outcome :=
  match s.cfg.driveMode with
  | .mux => .next (startBurst dur s)
  | .static => .next (startHold dur s)

/-- UPDATE: the static frame (43_static R123); in MUX mode a noop (42_scanner R112). -/
def execUpdate (s : State) : Outcome :=
  match s.cfg.driveMode with
  | .mux => .next s
  | .static => .next (updateStatic s)

/-- CLEAR: the clear frame of the drive mode (42_scanner R111, 43_static R125). -/
def execClear (s : State) : Outcome :=
  match s.cfg.driveMode with
  | .mux => .next (clearMux s)
  | .static => .next (clearStatic s)

end Sys2Proof.Machine
end

