-- ==== Sys2Proof/Machine/Dispatch.lean ====
section
/-! DEFINITION. The dispatch of a decoded command to its meaning, one arm per constructor of Instr. -/

namespace Sys2Proof.Machine

open Sys2Proof

def exec (i : Instr) (s : State) : Host.Outcome State Fault Refusal :=
  match i with
  | .wsec sec codes => Sys2Proof.Machine.execWsec sec codes s
  | .wcell sec idx code => Sys2Proof.Machine.execWcell sec idx code s
  | .sdot sec idx on => Sys2Proof.Machine.execSdot sec idx on s
  | .wchr sec chars => Sys2Proof.Machine.execWchr sec chars s
  | .showFor dur => Sys2Proof.Machine.execShow dur s
  | .update => Sys2Proof.Machine.execUpdate s
  | .clear => Sys2Proof.Machine.execClear s

end Sys2Proof.Machine
end

