-- ==== Sys2Proof/Machine/Port.lean ====
section
/-! DEFINITION. The command processor at its port (10_state R29, 30_encoding R67, R68): accepting packet bytes and executing the command. -/

namespace Sys2Proof.Machine

/-- CP after bytes of an incomplete command: BUSY waiting for its payload, READY if there is none (10_state R29). -/
def waitingCp (got : List Byte) : CP := if got.isEmpty then .ready else .busy (.payload got)

/-- Take bytes from the port for the command whose bytes so far are `got`. A complete command is executed, and CP is READY when it has
completed, unless its meaning makes it BUSY; an incomplete one is held; a reserved encoding is refused as a whole
(30_encoding R68, R76, R77; 60_exceptions R151, R153). -/
def accept (got : List Byte) (s : State) : Outcome :=
  match decode (got ++ s.port) with
  | .cmd i rest => exec i ((s.setPort rest).setCp .ready)
  | .more => .next ((s.setPort []).setCp (waitingCp (got ++ s.port)))
  | .reservedOpcode => .refused .reservedOpcode
  | .reservedField => .refused .reservedField

/-- What the block does while reset is released: accept a command, wait for its payload, or go on with the output command in
progress (10_state R29). -/
def run (s : State) : Outcome :=
  match s.cp with
  | .ready => accept [] s
  | .busy (.payload got) => accept got s
  | .busy .guard => guardStep s
  | .busy .drive => driveStep s
  | .busy (.slice t0) => sliceStep t0 s
  | .busy (.hold t0 dur) => holdStep t0 dur s

end Sys2Proof.Machine
end

