-- ==== Sys2Proof/Machine/ResetControl.lean ====
section
/-! DEFINITION. Reset (70_reset R164 to R166): asserted it ends the command in progress at once, released it loads the configuration. -/

namespace Sys2Proof.Machine

/-- Reset release: registers loaded, sections derived, every cell blank, DRV idle, CP ready (70_reset R164, 10_state R36). The scan
registers are unspecified and never read before written; they are set to 0 (log entry 2). The glyph ROM (10_state R23), the
inputs and the trace are left as they are, and no frame is sent (70_reset R166). -/
def State.boot (s : State) : State :=
  { s with
    cfg := loadRegisters s.cfgIn
    cells := []
    cp := .ready
    drv := .idle
    scanT0 := 0
    scanDur := 0
    scanI := 0
    inReset := false }

/-- Reset release with an invalid configuration has no initial state (00_scope R8, 60_exceptions R151). -/
def releaseReset (s : State) : Outcome :=
  if configValid s.cfgIn s.glyph then .next s.boot else .refused .invalidConfig

/-- Reset asserted: the command in progress is gone, and nothing is accepted until release (70_reset R164, R165). -/
def State.enterReset (s : State) : State :=
  (({ s with inReset := true }.setCp .ready).setDrv .idle).addEvents [Event.reset]

/-- The events a step added to the trace. -/
def newEvents (s t : State) : List Event := t.trace.drop s.trace.length

/-- The event is a read of Now(). -/
def isRead (e : Event) : Bool :=
  match e with
  | .emit _ _ => false
  | .latch => false
  | .now _ => true
  | .reset => false

/-- The step from `s` to `t` with only the first `n` of its events (70_reset R165). A step reads Now() at most once; where that read is
cut off it has not happened, and the time input is as before the step (log entry 4). -/
def cutStep (n : Nat) (s t : State) : State :=
  let kept := (newEvents s t).take n
  let u := if kept.any isRead then t else t.setTime s.timeIn s.clock s.draws
  { u with trace := s.trace ++ kept }

/-- Reset asserted after the coming step's first `after` events (70_reset R165: a frame may be cut short). With `after = 0` nothing of
the step happens. A command refused before reset cuts in stays refused (log entry 9). -/
def assertReset (after : Nat) (s : State) : Outcome :=
  match after with
  | 0 => .next s.enterReset
  | k + 1 =>
    match run s with
    | .next t => .next (cutStep (k + 1) s t).enterReset
    | .fault r => .fault r
    | .refused r => .refused r

/-- Power has returned: the block is in reset, with the configuration inputs `c` and the glyph ROM `g` (60_exceptions R161). What its
registers and cells hold does not matter, since release writes them all. -/
def State.poweredUp (c : ConfigInputs) (g : GlyphTable) : State := { State.resetWith c g with inReset := true }

/-- One step under the reset input, which takes priority (60_exceptions R153). While reset stays asserted nothing happens. An
assertion is seen by the step it is held at (DESIGN CHOICE, log entry 20). -/
def stepWithReset (s : State) : Outcome :=
  match s.resetIn, s.inReset with
  | .asserted _, true => .next s
  | .asserted after, false => assertReset after s
  | .released, true => releaseReset s
  | .released, false => run s

end Sys2Proof.Machine
end

