-- ==== Sys2Proof/Machine/Step.lean ====
section
/-! DEFINITION. One step of the SDC, and the state in which a given command is the next one it runs. -/

namespace Sys2Proof.Machine

/-- One step (00_scope R6): a command accepted and executed, or the next action of the output command in progress, or reset. -/
def step (s : State) : Host.Outcome State Fault Refusal := stepWithReset s

/-- `s` with one packet of the opcode table on the command port, the block ready to accept it (log entry 5). -/
def State.withFetchWord (s : State) (nbits w : Nat) : State :=
  { s with port := tablePacket nbits w, cp := .ready, resetIn := .released, inReset := false }

end Sys2Proof.Machine
end

