-- ==== Sys2Proof/Machine/HostFormatting.lean ====
section
/-! DEFINITION. The host reference procedure (47_host_formatting.md): number formatting, layout, and the value-setting calls. It is host
software, a pure function outside the step (00_scope R4, 47 R131): from a value to at most one command and a status. -/

namespace Sys2Proof.Machine

/-- A sequence of characters. -/
abbrev Text := List Byte

/-- The character `-`. -/
def minusChar : Byte := 0x2D

/-- The character `0`. -/
def zeroChar : Byte := 0x30

/-- The space. -/
def spaceChar : Byte := 0x20

/-- The character of a digit. -/
def digitChar (d : Nat) : Byte := BitVec.ofNat 8 (0x30 + d)

/-- The digits of `n`, at most `fuel` of them, put before `acc`. -/
def digitsOnto : Nat → Nat → Text → Text
  | 0, _, acc => acc
  | fuel + 1, n, acc =>
    if n / 10 = 0 then digitChar (n % 10) :: acc else digitsOnto fuel (n / 10) (digitChar (n % 10) :: acc)

/-- The decimal digits of `n`, most significant first, no leading zero; `0` for zero (47 R132, R135). A number has at most as many
decimal as binary digits. -/
def decimalDigits (n : Nat) : Text := digitsOnto (n.log2 + 1) n []

/-- FORMAT_INT(v) (47 R132). -/
def formatInt (v : Int) : Text := (if v < 0 then [minusChar] else []) ++ decimalDigits v.natAbs

/-- ROUND(y): the nearest integer, halves away from zero: sign(y) * floor(|y| + 1/2) (47 R134). -/
def roundHalfAway (y : Rat) : Int :=
  let m : Nat := (2 * y.num.natAbs + y.den) / (2 * y.den)
  if y.num < 0 then -(m : Int) else m

/-- Characters and, where a point is drawn, the number of places it stands left of the last one. -/
structure Formatted where
  chars : Text
  point : Option Nat
  deriving DecidableEq, Repr

/-- FORMAT_REAL(x, N), N in 0..9 (47 R134, R135). -/
def formatReal (x : Rat) (n : Fin 10) : Formatted :=
  if n.val = 0 then { chars := formatInt (roundHalfAway x), point := none }
  else
    let m := roundHalfAway (x * (10 ^ n.val : Nat))
    let digits := decimalDigits m.natAbs
    let padded := List.replicate (n.val + 1 - digits.length) zeroChar ++ digits
    { chars := (if m < 0 then [minusChar] else []) ++ padded, point := some n.val }

/-- An alignment (47 R138). -/
inductive Align where
  | left
  | right
  | center
  deriving DecidableEq, Repr

/-- The virtual left end of `n` characters in a window of `w` (47 R138); it may be outside the window. -/
def leftEdge (a : Align) (n w : Nat) : Int :=
  match a with
  | .left => 0
  | .right => (w : Int) - n
  | .center => ((w : Int) - n) / 2

/-- The virtual right end (47 R138). -/
def rightEdge (a : Align) (n w : Nat) : Int :=
  match a with
  | .left => (n : Int) - 1
  | .right => (w : Int) - 1
  | .center => leftEdge .center n w + n - 1

/-- The window's character at position `p` (47 R139, R141). -/
def windowCell (chars : List CharCell) (left : Int) (lz : Bool) (p : Nat) : CharCell :=
  if 0 ≤ (p : Int) - left ∧ (p : Int) - left < chars.length then
    chars.getD ((p : Int) - left).toNat { ch := spaceChar, dot := false }
  else if (p : Int) < left ∧ lz then { ch := zeroChar, dot := false }
  else { ch := spaceChar, dot := false }

/-- The point position `right - d`, where a point is drawn (47 R140). -/
def pointPosition (a : Align) (n w : Nat) (d : Option Nat) : Option Int := d.map (fun k => rightEdge a n w - k)

/-- A laid-out window and its status (47 R142). -/
structure Window where
  cells : List CharCell
  ok    : Bool
  deriving DecidableEq, Repr

/-- LAYOUT (47 R138 to R142): place, fill, draw the point. -/
def layout (chars : List CharCell) (w : Nat) (a : Align) (d : Option Nat) (lz : Bool) : Window :=
  let n := chars.length
  let pt := pointPosition a n w d
  { cells := (List.range w).map (fun p =>
      let c := windowCell chars (leftEdge a n w) (lz && decide (a = .right)) p
      if pt = some (p : Int) then { c with dot := true } else c)
    ok := decide (n ≤ w) &&
      (match pt with
       | some q => decide (0 ≤ q ∧ q ≤ (w : Int) - 1)
       | none => true) }

/-- Characters without dots. -/
def plainCells (t : Text) : List CharCell := t.map (fun c => { ch := c, dot := false })

/-- The characters of `set.chars`, each carrying its dot flag (47 R147). -/
def dottedCells (t : Text) (dots : List Nat) : List CharCell := t.zipIdx.map (fun p => { ch := p.1, dot := dots.contains p.2 })

/-- A value-setting call (30_encoding R84). An integer is a signed 32-bit value (47 R133); a section index is any natural number
(00_scope R9; 47 R148). -/
inductive HostCall where
  | setInt (sec : Nat) (v : Word32) (a : Align) (lz : Bool)
  | setReal (sec : Nat) (x : Rat) (n : Fin 10) (a : Align) (lz : Bool)
  | setChar (sec : Nat) (c : Byte) (a : Align)
  | setText (sec : Nat) (t : Text) (a : Align)
  | setChars (sec : Nat) (t : Text) (dots : List Nat) (a : Align)
  | setRaw (sec : Nat) (codes : List Byte)
  deriving DecidableEq

/-- What a call sends, and what it returns to its caller (47 R131). -/
structure HostResult where
  sent : Option Instr
  ok   : Bool
  deriving DecidableEq, Repr

/-- The section of a call. -/
def HostCall.section : HostCall → Nat
  | .setInt sec _ _ _ => sec
  | .setReal sec _ _ _ _ => sec
  | .setChar sec _ _ => sec
  | .setText sec _ _ => sec
  | .setChars sec _ _ _ => sec
  | .setRaw sec _ => sec

/-- The command of a call to a valid section of `w` cells (47 R145 to R147). A valid section's index fits the packet's field (10_state R19). The status of set.raw, which R146 does not name, is ok
whatever the number of codes (DESIGN CHOICE, log entry 17). -/
def hostCommand (c : HostCall) (w : Nat) : HostResult :=
  let send (sec : Nat) (win : Window) : HostResult := { sent := some (.wchr (BitVec.ofNat 4 sec) win.cells), ok := win.ok }
  match c with
  | .setInt sec v a lz => send sec (layout (plainCells (formatInt v.toInt)) w a none lz)
  | .setReal sec x n a lz => send sec (layout (plainCells (formatReal x n).chars) w a (formatReal x n).point lz)
  | .setChar sec ch a => send sec (layout (plainCells [ch]) w a none false)
  | .setText sec t a => send sec (layout (plainCells t) w a none false)
  | .setChars sec t dots a => send sec (layout (dottedCells t dots) w a none false)
  | .setRaw sec codes => { sent := some (.wsec (BitVec.ofNat 4 sec) codes), ok := true }

/-- The host procedure, given the section table of the configuration (47 R145 to R148): an invalid section sends nothing. -/
def hostCall (secs : List Section) (c : HostCall) : HostResult :=
  match secs[c.section]? with
  | some r => hostCommand c r.len
  | none => { sent := none, ok := true }

end Sys2Proof.Machine
end

