-- ==== Sys2Proof/Machine/Device.lean ====
section
/-! DEFINITION. The external output device as the event trace determines it (10_state R33, R34; 70_reset R165, R166). It is not block
state: the SDC only sends it frames (60_exceptions R158). -/

namespace Sys2Proof.Machine

/-- What a trace has put into the chain. -/
structure ChainView where
  /-- the complete frames, oldest first -/
  frames  : List (List Byte)
  /-- the bytes emitted since the last latch or reset -/
  pending : List Byte
  /-- the shift stages hold a mix that nothing determines -/
  mixed   : Bool
  deriving DecidableEq, Repr

/-- A chain before the first frame after power-up: nothing is known of it (10_state R33). -/
def emptyChain : ChainView := { frames := [], pending := [], mixed := true }

/-- One event seen by the chain. A reset in the middle of a frame leaves a mix in the shift stages (70_reset R165). -/
def chainEvent (v : ChainView) (e : Event) : ChainView :=
  match e with
  | .emit b _ => { v with pending := v.pending ++ [b] }
  | .latch => { frames := v.frames ++ [v.pending], pending := [], mixed := false }
  | .now _ => v
  | .reset => { v with pending := [], mixed := v.mixed || !v.pending.isEmpty }

/-- The chain after a trace. -/
def chainView (tr : List Event) : ChainView := tr.foldl chainEvent emptyChain

/-- The complete frames of a trace (10_state R34). -/
def framesOf (tr : List Event) : List (List Byte) := (chainView tr).frames

/-- The latched outputs: the last complete frame, in emit order; before the first one a free value (10_state R33). -/
def State.displayed (s : State) : List Byte := (framesOf s.trace).getLast?.getD Config.powerUpDisplay

/-- The Emit and Latch events of a trace, the Now() reads left out. -/
def outputs (tr : List Event) : List Event :=
  tr.filter (fun e =>
    match e with
    | .emit _ _ => true
    | .latch => true
    | _ => false)

/-- The shift stages: the last complete frame, or a free value where they are not determined (70_reset R165). The free value is that of
what the SDC has sent, so only sending changes it (10_state R33). -/
def State.shiftStages (s : State) : List Byte :=
  if (chainView s.trace).mixed || !(chainView s.trace).pending.isEmpty then Config.shiftMix (outputs s.trace).length else s.displayed

/-- The byte that register `j` of a chain as long as the frame latches: the last byte emitted lands in register 0
(30_encoding R82, informative). -/
def chainRegister (frame : List Byte) (j : Nat) : Option Byte := frame.reverse[j]?

end Sys2Proof.Machine
end

