-- ==== Sys2Proof/Machine/HostInterface.lean ====
section
/-! DEFINITION. What the host and the platform may do to a running SDC between two steps (60_exceptions R162): each writes one input. -/

namespace Sys2Proof.Machine

/-- The host offers bytes on the command port; bytes offered while the block is busy are held, not dropped (60_exceptions R163). -/
def State.hostSend (s : State) (bs : List Byte) : State := { s with port := s.port ++ bs }

/-- The host asserts reset, to cut in after `after` events of the coming step (70_reset R165). -/
def State.hostAssertReset (s : State) (after : Nat) : State := { s with resetIn := .asserted after }

/-- The host releases reset with these configuration inputs (60_exceptions R162, 70_reset R167). Reset asserted and released with no step
between has no effect: the spec gives no length that reset must be held for (DESIGN CHOICE, log entry 20). -/
def State.hostReleaseReset (s : State) (c : ConfigInputs) : State := { s with resetIn := .released, cfgIn := c }

/-- The platform fixes the time that will pass before each of the next reads of Now() (10_state R35). Time never runs backwards: an
advance is a natural number. -/
def State.hostTime (s : State) (ahead : List Nat) : State := { s with timeIn := s.timeIn ++ ahead }

end Sys2Proof.Machine
end

