-- ==== Sys2Proof/Machine/Invariant.lean ====
section
/-! DEFINITION. The invariant of the SDC's state: what the spec says holds after every reset and every command. -/

namespace Sys2Proof.Machine

/-- Sections follow one another from `start` on, none of them empty (10_state R20). -/
def sectionsFrom : Nat → List Section → Bool
  | _, [] => true
  | start, r :: rest => r.start == start && decide (1 ≤ r.len) && sectionsFrom (start + r.len) rest

/-- The registers are those of a valid configuration (00_scope R8; 10_state R20, R24). -/
def registersOk (r : Registers) : Bool :=
  decide (1 ≤ r.sections.length) &&
  sectionsFrom 0 r.sections &&
  (sectionsLength r.sections == r.dispLen) &&
  decide (r.dispLen ≤ r.maxCells ∧ r.maxCells ≤ 8) &&
  (match r.driveMode with
   | .mux => r.sel.length == r.maxCells
   | .static => true) &&
  decide (1 ≤ r.tCellMs.toNat)

/-- CP, DRV, SCAN_I and the drive mode agree (10_state R29 to R31; 90_conflicts C10). -/
def State.cpOk (s : State) : Bool :=
  match s.cp with
  | .ready => decide (s.drv = .idle)
  | .busy (.payload got) => decide (s.drv = .idle) && decide (decode got = .more) && !got.isEmpty && !s.inReset
  | .busy .guard => decide (s.drv = .scanning) && decide (s.cfg.driveMode = .mux) && !s.inReset
  | .busy .drive =>
    decide (s.drv = .scanning) && decide (s.cfg.driveMode = .mux) && decide (s.scanI < s.cfg.dispLen) && !s.inReset
  | .busy (.slice _) =>
    decide (s.drv = .scanning) && decide (s.cfg.driveMode = .mux) && decide (s.scanI < s.cfg.dispLen) && !s.inReset
  | .busy (.hold _ _) => decide (s.drv = .idle) && decide (s.cfg.driveMode = .static) && !s.inReset

/-- The invariant: valid registers, a glyph ROM with bit 0 clear, a canonical cell buffer, an agreeing sequencer. -/
abbrev State.Inv (s : State) : Prop :=
  registersOk s.cfg = true ∧ glyphsOk s.glyph = true ∧ Memory.wf s.blank s.cfg.dispLen s.cells = true ∧ s.cpOk = true

end Sys2Proof.Machine
end

