-- ==== Sys2Proof/Safety.lean ====
section
/-! DEFINITION. Runs of the SDC, in the terms claims use: several steps, idle inputs, and the time premises of 42_scanner R114, R115. -/

namespace Sys2Proof

open Sys2Proof.Machine

/-- `k` steps, stopping at the first fault or refusal. -/
def steps : Nat → State → Outcome
  | 0, s => .next s
  | k + 1, s =>
    match step s with
    | .next t => steps k t
    | .fault r => .fault r
    | .refused r => .refused r

/-- The meanings of a stream of commands one after another, stopping at the first fault or refusal. -/
def execAll : List Instr → State → Outcome
  | [], s => .next s
  | i :: is, s =>
    match exec i s with
    | .next t => execAll is t
    | .fault r => .fault r
    | .refused r => .refused r

/-- The machine stops with a fault. -/
def Faults (o : Outcome) : Prop := ∃ r, o = .fault r

/-- No reset: the reset input is released and the block is out of reset. -/
abbrev Running (s : State) : Prop := s.resetIn = .released ∧ s.inReset = false

/-- Consistent registers and a canonical buffer: what the address checks of the write commands rely on (20_memory R38). -/
abbrev BufferOk (s : State) : Prop := registersOk s.cfg = true ∧ Memory.wf s.blank s.cfg.dispLen s.cells = true

/-- Only the cell buffer differs: every register, input, time and trace field is as before. -/
def OnlyCellsDiffer (s t : State) : Prop := t = s.setCells t.cells

/-- The section a write command names; none for the output commands (41_buffer, 42_scanner, 43_static). -/
def writeSection : Instr → Option (BitVec 4)
  | .wsec sec _ => some sec
  | .wcell sec _ _ => some sec
  | .sdot sec _ _ => some sec
  | .wchr sec _ => some sec
  | .showFor _ => none
  | .update => none
  | .clear => none

/-- A write command's address check fails: its section does not exist, its relative index is not below the section's length, or its count
is not that length (41_buffer R93). An output command has no check. -/
def AddressFails (s : State) : Instr → Prop
  | .wsec sec codes => ∀ r, s.cfg.sections[sec.toNat]? = some r → codes.length ≠ r.len
  | .wcell sec idx _ => ∀ r, s.cfg.sections[sec.toNat]? = some r → r.len ≤ idx.toNat
  | .sdot sec idx _ => ∀ r, s.cfg.sections[sec.toNat]? = some r → r.len ≤ idx.toNat
  | .wchr sec chars => ∀ r, s.cfg.sections[sec.toNat]? = some r → chars.length ≠ r.len
  | .showFor _ => False
  | .update => False
  | .clear => False

/-- The logical code that a command whose check passes writes whole at a relative index of its section; none where it writes no whole
code there (41_buffer R94, R95, R97, R101). -/
def codeWritten (g : GlyphTable) (idx : Nat) : Instr → Option Byte
  | .wsec _ codes => codes[idx]?
  | .wcell _ k code => if k.toNat = idx then some code else none
  | .sdot _ _ _ => none
  | .wchr _ chars => chars[idx]?.map (enc g)
  | .showFor _ => none
  | .update => none
  | .clear => none

/-- CP is BUSY with an output command (10_state R29): the block accepts no byte. -/
def OutputBusy (s : State) : Prop := ∃ a, s.cp = .busy a ∧ ∀ got, a ≠ .payload got

/-- The number that the digits of decoded codes write. -/
def numberOf (ds : List Nat) : Nat := ds.foldl (fun n d => 10 * n + d) 0

/-- The frames of one pass: each cell's frame in increasing index order (42_scanner R105, R117). -/
def passFrames (s : State) : List (List Byte) := (List.range s.cfg.dispLen).map (fun i => s.muxPair (s.cfg.sel.getD i 0) (s.cell i))

/-- The frames of a burst of `p` passes after its first guard: whole passes, then the clear frame (42_scanner R110). -/
def burstFrames (s : State) (p : Nat) : List (List Byte) := (List.replicate p (passFrames s)).flatten ++ [s.clearFrameMux]

/-- The Emit and Latch events of frames sent one after another. -/
def framesEvents (order : BitOrder) (fs : List (List Byte)) : List Event := (fs.map (frameEvents order)).flatten

/-- The time advances of one pass under exact timing: the guard's read and each slice's first read take no time, and each slice ends
after exactly `tc` milliseconds (42_scanner R114). -/
def exactPass (cells tc : Nat) : List Nat := 0 :: (List.replicate cells [0, tc]).flatten

/-- The time advances of the `p` passes of a burst and of its last guard, under exact timing (42_scanner R114). -/
def exactTiming (cells tc p : Nat) : List Nat := (List.replicate p (exactPass cells tc)).flatten ++ [0]

/-- A run of `n` steps with the true time, in milliseconds, at which each step's last transport call or read ended: no earlier than the
step's reads, and never running backwards. The trace does not show how long a frame takes, so a timing claim brings the times with it
(93 I15; log entry 18). -/
def TimedRun (run : Nat → State) (ended : Nat → Nat) (n : Nat) : Prop :=
  ∀ k, k < n → step (run k) = .next (run (k + 1)) ∧ (run (k + 1)).clock ≤ ended k ∧ (k + 1 < n → ended k ≤ ended (k + 1))

/-- The step after `run k` is a guard that admits a pass (42_scanner R110). -/
def AdmitsPass (run : Nat → State) (k : Nat) : Prop := (run k).cp = .busy .guard ∧ (run (k + 1)).cp = .busy .drive

/-- A_PASS (42_scanner R115, 70_reset R174), the platform's premise: from each guard's read, the pass it admits, and the clear frame if the
next guard sends it, end within T_PASS. -/
def APass (run : Nat → State) (ended : Nat → Nat) (n : Nat) : Prop :=
  ∀ k j, k < j → j < n → AdmitsPass run k → (∀ i, k < i → i < j → (run i).cp ≠ .busy .guard) → ¬ AdmitsPass run j →
    ended j ≤ (run (k + 1)).clock + (run k).tPass

end Sys2Proof
end

