-- ==== Sys2Proof/Certificates/Slice0/Obligations.lean ====
section
/-! DEFINITION. The statements about the SDC for the provers, from the numbered rules of spec/. -/

open Sys2Proof Sys2Proof.Machine

/-! ### Encoding -/

/-- 30_encoding R69 to R74: decoding the packet of a well-formed command gives it back, with every operand, and leaves what follows. -/
def Obligations.DecodeOfEncodeIsTheCommand : Prop :=
  ∀ (i : Instr) (rest : List Byte), i.wellFormed = true → decode (encode i ++ rest) = .cmd i rest

/-- 30_encoding R68 to R79: a packet that decodes is the encoding of the command it decodes to, so each command has one packet. -/
def Obligations.EncodeOfDecodeIsThePacket : Prop :=
  ∀ (bs : List Byte) (i : Instr) (rest : List Byte), decode bs = .cmd i rest → i.wellFormed = true ∧ bs = encode i ++ rest

/-- 95_test_vectors V3, V6: packets written out from the encoding tables decode to the commands they stand for. -/
def Obligations.WrittenOutPacketsDecode : Prop :=
  decode [0x11, 0x04, 0x60, 0xDA, 0xF2, 0x66] = .cmd (.wsec 1 [0x60, 0xDA, 0xF2, 0x66]) [] ∧
  decode [0x21, 0x02, 0xE0] = .cmd (.wcell 1 2 0xE0) [] ∧
  decode [0x31, 0x03, 0x01] = .cmd (.sdot 1 3 true) [] ∧
  decode [0x42, 0x02, 0x33, 0x01, 0x31, 0x00] = .cmd (.wchr 2 [⟨0x33, true⟩, ⟨0x31, false⟩]) [] ∧
  decode [0x80, 0x78, 0x56, 0x34, 0x12, 0x90] = .cmd (.showFor 0x12345678) [0x90] ∧
  decode [0x90] = .cmd .update [] ∧ decode [0xA0] = .cmd .clear []

/-- 30_encoding R76: a header with a reserved OP is refused when the block would accept it, whatever follows. -/
def Obligations.ReservedOpcodeIsRefused : Prop :=
  ∀ (s : State) (h : Byte) (bs : List Byte), Running s → s.cp = .ready → s.port = h :: bs →
    (opField h = 0 ∨ (5 ≤ (opField h).toNat ∧ (opField h).toNat ≤ 7) ∨ 11 ≤ (opField h).toNat) →
    step s = .refused .reservedOpcode

/-- 30_encoding R77: a complete packet with a nonzero reserved field is refused. -/
def Obligations.ReservedFieldIsRefused : Prop :=
  ∀ (s : State) (rest : List Byte), Running s → s.cp = .ready →
    (∀ (op sec : BitVec 4) (payload : List Byte), s.port = header op sec :: (payload ++ rest) → sec ≠ 0 →
      (op = 8 ∧ payload.length = 4) ∨ ((op = 9 ∨ op = 10) ∧ payload = []) → step s = .refused .reservedField) ∧
    (∀ (sec : BitVec 4) (idx on : Byte), s.port = header 3 sec :: idx :: on :: rest → on.extractLsb' 1 7 ≠ 0 →
      step s = .refused .reservedField) ∧
    (∀ (sec : BitVec 4) (ps : List (Byte × Byte)), ps.length ≤ 255 →
      s.port = header 4 sec :: BitVec.ofNat 8 ps.length :: (ps.flatMap (fun p => [p.1, p.2]) ++ rest) →
      (∃ p ∈ ps, p.2.extractLsb' 1 7 ≠ 0) → step s = .refused .reservedField)

/-! ### The command processor -/

/-- 10_state R29, 30_encoding R67, R68: when the bytes of the command in progress and those on the port make a command, the step is that
command's meaning on the state with those bytes gone from the port and CP READY. -/
def Obligations.StepRunsTheDecodedCommand : Prop :=
  ∀ (s : State) (i : Instr) (rest : List Byte), Running s →
    (s.cp = .ready → decode s.port = .cmd i rest → step s = exec i (s.setPort rest)) ∧
    (∀ got, s.cp = .busy (.payload got) → decode (got ++ s.port) = .cmd i rest →
      step s = exec i ((s.setPort rest).setCp .ready))

/-- 10_state R29, 30_encoding R68: a packet may arrive in two parts. The block is BUSY waiting for payload after the first, holding it,
and runs the command when the second comes. -/
def Obligations.SplitPacketRunsTheCommand : Prop :=
  ∀ (s : State) (i : Instr) (xs ys : List Byte), Running s → i.wellFormed = true → encode i = xs ++ ys → xs ≠ [] → ys ≠ [] →
    s.cp = .ready → s.port = xs →
    ∃ t, step s = .next t ∧ t = (s.setPort []).setCp (.busy (.payload xs)) ∧
      step (t.hostSend ys) = exec i ((s.setPort []).setCp .ready)

/-- 30_encoding R68, 41_buffer R93: a write command whose address check fails, for its section, its relative index or its count, is a noop
whose packet has been consumed. -/
def Obligations.FailingAddressConsumesThePacket : Prop :=
  ∀ (s : State) (i : Instr) (rest : List Byte), Running s → s.cp = .ready → i.wellFormed = true → AddressFails s i →
    s.port = encode i ++ rest → step s = .next (s.setPort rest)

/-- 30_encoding R67, R68: a step takes bytes from the front of the port only, and only while CMD_READY is high. -/
def Obligations.BytesTransferOnlyWhenReady : Prop :=
  ∀ s t : State, s.Inv → step s = .next t → ∃ taken, s.port = taken ++ t.port ∧ (taken ≠ [] → s.cmdReady = true)

/-- 10_state R29, 60_exceptions R163, 20_memory R47: while an output command is in progress no byte is accepted, and the buffer, the
registers and the glyph ROM do not change. -/
def Obligations.BusyBlockAcceptsNothing : Prop :=
  ∀ (s t : State), Running s → OutputBusy s → step s = .next t →
    t.port = s.port ∧ t.cells = s.cells ∧ t.cfg = s.cfg ∧ t.glyph = s.glyph ∧ s.cmdReady = false

/-! ### Write commands -/

/-- 41_buffer R94: WSEC stores the committed codes in its section and changes nothing else; otherwise it is a noop. -/
def Obligations.WsecReplacesItsSection : Prop :=
  ∀ (s : State) (sec : BitVec 4) (codes : List Byte), BufferOk s →
    (∀ r, s.cfg.sections[sec.toNat]? = some r → codes.length = r.len →
      ∃ t, exec (.wsec sec codes) s = .next t ∧ OnlyCellsDiffer s t ∧
        (∀ j v, codes[j]? = some v → t.cell (r.start + j) = commit s.cfg.polarity v) ∧
        (∀ a, a < r.start ∨ r.start + r.len ≤ a → t.cell a = s.cell a)) ∧
    ((∀ r, s.cfg.sections[sec.toNat]? = some r → codes.length ≠ r.len) → exec (.wsec sec codes) s = .next s)

/-- 41_buffer R95: WCELL stores the committed code in its one cell and changes nothing else; otherwise it is a noop. -/
def Obligations.WcellReplacesOneCell : Prop :=
  ∀ (s : State) (sec : BitVec 4) (idx code : Byte), BufferOk s →
    (∀ r, s.cfg.sections[sec.toNat]? = some r → idx.toNat < r.len →
      ∃ t, exec (.wcell sec idx code) s = .next t ∧ OnlyCellsDiffer s t ∧
        t.cell (r.start + idx.toNat) = commit s.cfg.polarity code ∧
        (∀ a, a ≠ r.start + idx.toNat → t.cell a = s.cell a)) ∧
    ((∀ r, s.cfg.sections[sec.toNat]? = some r → r.len ≤ idx.toNat) → exec (.wcell sec idx code) s = .next s)

/-- 41_buffer R96: SDOT sets bit 0 of its one cell to ON, inverted for ANODE, keeps bits 7:1, and changes nothing else; the two forms the
rule gives are the same; otherwise it is a noop. -/
def Obligations.SdotSetsOneDot : Prop :=
  ∀ (s : State) (sec : BitVec 4) (idx : Byte) (on : Bool), BufferOk s →
    (∀ r, s.cfg.sections[sec.toNat]? = some r → idx.toNat < r.len →
      ∃ t, exec (.sdot sec idx on) s = .next t ∧ OnlyCellsDiffer s t ∧
        (∀ k, (t.cell (r.start + idx.toNat)).getLsbD k =
          if k = 0 then on ^^ decide (s.cfg.polarity = .anode) else (s.cell (r.start + idx.toNat)).getLsbD k) ∧
        t.cell (r.start + idx.toNat) =
          commit s.cfg.polarity ((commit s.cfg.polarity (s.cell (r.start + idx.toNat)) &&& 0xFE) ||| (if on then 1 else 0)) ∧
        (∀ a, a ≠ r.start + idx.toNat → t.cell a = s.cell a)) ∧
    ((∀ r, s.cfg.sections[sec.toNat]? = some r → r.len ≤ idx.toNat) → exec (.sdot sec idx on) s = .next s)

/-- 41_buffer R97, 40_encoder R86, R88: WCHR stores COMMIT(GLYPH(c) | dot) for each character in its section and changes nothing else;
otherwise it is a noop. -/
def Obligations.WchrEncodesItsWindow : Prop :=
  ∀ (s : State) (sec : BitVec 4) (chars : List CharCell), BufferOk s →
    (∀ r, s.cfg.sections[sec.toNat]? = some r → chars.length = r.len →
      ∃ t, exec (.wchr sec chars) s = .next t ∧ OnlyCellsDiffer s t ∧
        (∀ j c, chars[j]? = some c →
          t.cell (r.start + j) = commit s.cfg.polarity (glyphOf s.glyph c.ch ||| (if c.dot then 0x01 else 0x00))) ∧
        (∀ a, a < r.start ∨ r.start + r.len ≤ a → t.cell a = s.cell a)) ∧
    ((∀ r, s.cfg.sections[sec.toNat]? = some r → chars.length ≠ r.len) → exec (.wchr sec chars) s = .next s)

/-- 20_memory R39, 41_buffer R98, R99: the frame of WSEC, WCELL, SDOT and WCHR in every state: no field but the buffer changes, no frame
is emitted, and no cell outside the named section changes. -/
def Obligations.WritesStayInTheirSection : Prop :=
  ∀ (s t : State) (i : Instr) (sec : BitVec 4), writeSection i = some sec → exec i s = .next t →
    OnlyCellsDiffer s t ∧ t.trace = s.trace ∧
    ∀ a, (∀ r, s.cfg.sections[sec.toNat]? = some r → a < r.start ∨ r.start + r.len ≤ a) → t.cell a = s.cell a

/-- 41_buffer R100, 20_memory R44: repeating a write command leaves the state as the first one left it. -/
def Obligations.WritesAreIdempotent : Prop :=
  ∀ (s t : State) (i : Instr) (sec : BitVec 4), BufferOk s → writeSection i = some sec → exec i s = .next t → exec i t = .next t

/-- 41_buffer R102: under the two polarities the same write command leaves complementary bytes. -/
def Obligations.WritesComplementUnderPolarity : Prop :=
  ∀ (s u t : State) (i : Instr) (sec : BitVec 4), BufferOk s → BufferOk u → s.cfg.polarity = .cathode →
    u.cfg = { s.cfg with polarity := .anode } → u.glyph = s.glyph → (∀ a, u.cell a = ~~~(s.cell a)) →
    writeSection i = some sec → exec i s = .next t → ∃ v, exec i u = .next v ∧ ∀ a, v.cell a = ~~~(t.cell a)

/-- 41_buffer R104: a stream of write commands leaves the same state, but for the mode, in both drive modes. -/
def Obligations.WritesIgnoreTheDriveMode : Prop :=
  ∀ (s t : State) (is : List Instr) (d : DriveMode), (∀ i ∈ is, ∃ sec, writeSection i = some sec) → execAll is s = .next t →
    execAll is { s with cfg := { s.cfg with driveMode := d } } = .next { t with cfg := { s.cfg with driveMode := d } }

/-- 41_buffer R101: the last write wins, but SDOT keeps the segment bits: a cell written by WSEC, WCELL or WCHR and then dotted holds the
code with that dot, and a later WSEC, WCELL or WCHR that writes it leaves its own code alone, the dot lost. -/
def Obligations.LastWriteWins : Prop :=
  ∀ (s : State) (first second : Instr) (sec : BitVec 4) (idx c1 c2 : Byte) (on : Bool) (r : Section), BufferOk s →
    s.cfg.sections[sec.toNat]? = some r → idx.toNat < r.len →
    writeSection first = some sec → ¬ AddressFails s first → codeWritten s.glyph idx.toNat first = some c1 →
    writeSection second = some sec → ¬ AddressFails s second → codeWritten s.glyph idx.toNat second = some c2 →
    ∃ t u v, exec first s = .next t ∧ exec (.sdot sec idx on) t = .next u ∧ exec second u = .next v ∧
      u.cell (r.start + idx.toNat) = commit s.cfg.polarity ((c1 &&& 0xFE) ||| (if on then 1 else 0)) ∧
      v.cell (r.start + idx.toNat) = commit s.cfg.polarity c2

/-! ### Output commands -/

/-- 43_static R121, R123, 42_scanner R112: UPDATE in STATIC mode sends the whole buffer, cell L-1 first, as one frame, and changes
nothing but the trace; in MUX mode it is a noop. -/
def Obligations.UpdateSendsTheBuffer : Prop :=
  ∀ s : State,
    (s.cfg.driveMode = .static →
      ∃ bytes : List Byte, exec .update s = .next (s.addEvents (bytes.map (fun b => Event.emit b s.cfg.bitOrder) ++ [Event.latch])) ∧
        bytes.length = s.cfg.dispLen ∧ ∀ a, a < s.cfg.dispLen → bytes[s.cfg.dispLen - 1 - a]? = some (s.cell a)) ∧
    (s.cfg.driveMode = .mux → exec .update s = .next s)

/-- 42_scanner R106, R111, 43_static R122, R125: CLEAR sends the clear frame of the drive mode and changes nothing but the trace. -/
def Obligations.ClearSendsTheBlankFrame : Prop :=
  ∀ s : State,
    ∃ bytes : List Byte, exec .clear s = .next (s.addEvents (bytes.map (fun b => Event.emit b s.cfg.bitOrder) ++ [Event.latch])) ∧
      (s.cfg.driveMode = .mux → s.cfg.swapped = false → bytes = [s.cfg.selNone, commit s.cfg.polarity 0x00]) ∧
      (s.cfg.driveMode = .mux → s.cfg.swapped = true → bytes = [commit s.cfg.polarity 0x00, s.cfg.selNone]) ∧
      (s.cfg.driveMode = .static → bytes.length = s.cfg.dispLen ∧ ∀ b ∈ bytes, b = commit s.cfg.polarity 0x00)

/-- 42_scanner R108, R110, 43_static R124: SHOW in MUX mode reads the time, keeps DUR, starts scanning and sends the leading clear frame if
CLEAR_BEFORE = 1; in STATIC mode it sends the whole buffer and reads the time its hold begins at. Nothing else changes. -/
def Obligations.ShowStartsItsOutput : Prop :=
  ∀ (s : State) (dur : Word32),
    (s.cfg.driveMode = .mux →
      ∃ t, exec (.showFor dur) s = .next t ∧
        t.trace = s.trace ++ [Event.now s.now] ++
          (if s.cfg.clearBefore then frameEvents s.cfg.bitOrder s.clearFrameMux else []) ∧
        t = { s with scanT0 := s.now, scanDur := dur, drv := .scanning, cp := .busy .guard, timeIn := s.timeIn.tail, clock := s.nextClock,
                     draws := t.draws, trace := t.trace }) ∧
    (s.cfg.driveMode = .static →
      ∃ t, exec (.showFor dur) s = .next t ∧
        t.trace = s.trace ++ frameEvents s.cfg.bitOrder s.staticFrame ++ [Event.now s.now] ∧
        t = { s with cp := .busy (.hold s.now dur), timeIn := s.timeIn.tail, clock := s.nextClock, draws := t.draws, trace := t.trace })

/-- 42_scanner R110, R113: at the guard, if elapsed + T_PASS > DUR the clear frame is sent, DRV goes to IDLE and CP to READY; otherwise a
pass begins at cell 0. -/
def Obligations.GuardDecidesBeforeThePass : Prop :=
  ∀ s : State, Running s → s.cp = .busy .guard →
    (s.scanDur.toNat < (s.now - s.scanT0).toNat + s.cfg.dispLen * (s.cfg.tCellMs.toNat + s.cfg.tFrameMs.toNat) →
      step s = .next (((s.afterNow.addEvents (frameEvents s.cfg.bitOrder s.clearFrameMux)).setDrv .idle).setCp .ready)) ∧
    ((s.now - s.scanT0).toNat + s.cfg.dispLen * (s.cfg.tCellMs.toNat + s.cfg.tFrameMs.toNat) ≤ s.scanDur.toNat →
      step s = .next ((s.afterNow.setScanI 0).setCp (.busy .drive)))

/-- 42_scanner R105, R109: driving a cell sends its stored code and its select code, in the order SWAPPED names, and begins its slice. -/
def Obligations.DriveSendsTheCellFrame : Prop :=
  ∀ s : State, s.Inv → Running s → s.cp = .busy .drive →
    ∃ e t, s.cfg.sel[s.scanI]? = some e ∧ step s = .next t ∧ t.cp = .busy (.slice s.now) ∧
      t.trace = s.trace ++
        (if s.cfg.swapped then [Event.emit (s.cell s.scanI) s.cfg.bitOrder, Event.emit e s.cfg.bitOrder]
         else [Event.emit e s.cfg.bitOrder, Event.emit (s.cell s.scanI) s.cfg.bitOrder]) ++ [Event.latch, Event.now s.now] ∧
      t = { s with cp := t.cp, timeIn := s.timeIn.tail, clock := s.nextClock, draws := t.draws, trace := t.trace }

/-- 42_scanner R109, R110, R117: a slice waits until T_CELL_MS have passed since it began, then the next cell is driven, or after the last
one the next guard is reached. A poll emits nothing. -/
def Obligations.SliceWaitsThenAdvances : Prop :=
  ∀ (s : State) (t0 : Word32), Running s → s.cp = .busy (.slice t0) →
    ((s.now - t0).toNat < s.cfg.tCellMs.toNat → step s = .next s.afterNow) ∧
    (s.cfg.tCellMs.toNat ≤ (s.now - t0).toNat → s.scanI + 1 < s.cfg.dispLen →
      step s = .next ((s.afterNow.setScanI (s.scanI + 1)).setCp (.busy .drive))) ∧
    (s.cfg.tCellMs.toNat ≤ (s.now - t0).toNat → s.cfg.dispLen ≤ s.scanI + 1 → step s = .next (s.afterNow.setCp (.busy .guard)))

/-- 42_scanner R110, R113, R117, R120: from its first guard on, whatever the times read, a burst that ends has sent whole passes in
increasing cell order and then one clear frame, with the buffer as it was and DRV IDLE. -/
def Obligations.BurstSendsWholePasses : Prop :=
  ∀ (s t : State) (n : Nat), s.Inv → Running s → s.cp = .busy .guard → s.port = [] → steps n s = .next t → t.cp = .ready →
    t.cells = s.cells ∧ t.drv = .idle ∧
    ∃ p, outputs t.trace = outputs s.trace ++ framesEvents s.cfg.bitOrder (burstFrames s p)

/-- 42_scanner R114: under exact timing SHOW runs floor(DUR / T_PASS) passes, sends P * L + 1 + CLEAR_BEFORE frames, and its last one at
elapsed P * T_PASS, which is at most DUR. -/
def Obligations.ExactTimingPassCount : Prop :=
  ∀ (s : State) (dur : Word32) (first p : Nat) (later : List Nat), s.Inv → Running s → s.cfg.driveMode = .mux → s.cp = .ready →
    s.cfg.tFrameMs = 0 → s.port = encode (.showFor dur) → p = dur.toNat / s.tPass →
    s.timeIn = first :: (exactTiming s.cfg.dispLen s.cfg.tCellMs.toNat p ++ later) →
    ∃ t frames, steps (2 + p * (2 * s.cfg.dispLen + 1)) s = .next t ∧ t.cp = .ready ∧ t.drv = .idle ∧ t.cells = s.cells ∧
      frames = (if s.cfg.clearBefore then [s.clearFrameMux] else []) ++ burstFrames s p ∧
      outputs t.trace = outputs s.trace ++ framesEvents s.cfg.bitOrder frames ∧
      frames.length = p * s.cfg.dispLen + 1 + (if s.cfg.clearBefore then 1 else 0) ∧
      t.clock = s.clock + first + p * s.tPass ∧ p * s.tPass ≤ dur.toNat

/-- 42_scanner R107, R110, R114, R115: with T_FRAME_MS = 0, a SHOW that has ended within 2^32 ms ran at most DUR / T_PASS passes, whatever
the times read: its frames are the leading clear frame if CLEAR_BEFORE = 1, whole passes, and one clear frame. -/
def Obligations.PassCountIsBounded : Prop :=
  ∀ (s t : State) (dur : Word32) (n : Nat), s.Inv → Running s → s.cfg.driveMode = .mux → s.cp = .ready → s.cfg.tFrameMs = 0 →
    s.port = encode (.showFor dur) → 1 ≤ n → steps n s = .next t → t.cp = .ready → t.clock < s.clock + 2 ^ 32 →
    ∃ p, p * s.tPass ≤ dur.toNat ∧ t.cells = s.cells ∧
      outputs t.trace = outputs s.trace ++
        framesEvents s.cfg.bitOrder ((if s.cfg.clearBefore then [s.clearFrameMux] else []) ++ burstFrames s p)

/-- 42_scanner R113, the arithmetic behind R115: if a guard admits a pass, a read within T_PASS of the guard's read is at elapsed at most
DUR. -/
def Obligations.AdmittedPassEndsInTime : Prop :=
  ∀ (s : State) (later : Word32), s.passOverruns s.now = false → elapsed s.now later ≤ s.tPass →
    elapsed s.scanT0 later ≤ s.scanDur.toNat

/-- 42_scanner R115, 70_reset R173, R174: under A_PASS, a SHOW that runs a pass and ends within 2^32 ms makes no transport call that ends
after elapsed DUR, measured from its first read. A burst of no pass has a clear frame that A_PASS does not bound (log entry 18). -/
def Obligations.BurstEndsInTimeUnderAPass : Prop :=
  ∀ (run : Nat → State) (ended : Nat → Nat) (n : Nat) (dur : Word32),
    (run 0).Inv → Running (run 0) → (run 0).cfg.driveMode = .mux → (run 0).cp = .ready → (run 0).port = encode (.showFor dur) →
    TimedRun run ended n → APass run ended n → (∀ i, 0 < i → i < n → (run i).cp ≠ .ready) → (run n).cp = .ready →
    (run n).clock < (run 0).clock + 2 ^ 32 → (∃ k, k < n ∧ AdmitsPass run k) →
    ∀ j, j < n → ended j ≤ (run 1).clock + dur.toNat

/-- 43_static R124, 42_scanner R109: a static SHOW sends the buffer, waits at least DUR, then sends L stored blanks; CP is READY and DRV
has stayed IDLE. -/
def Obligations.StaticShowHoldsThenClears : Prop :=
  ∀ (s : State) (dur : Word32) (first held : Nat) (later : List Nat), Running s → s.cfg.driveMode = .static → s.cp = .ready →
    s.port = encode (.showFor dur) → s.timeIn = first :: held :: later → held < 2 ^ 32 →
    (dur.toNat ≤ held →
      ∃ t, steps 2 s = .next t ∧ t.cp = .ready ∧ t.drv = s.drv ∧ t.cells = s.cells ∧
        t.trace = s.trace ++ frameEvents s.cfg.bitOrder s.staticFrame ++
          [Event.now (BitVec.ofNat 32 (s.clock + first)), Event.now (BitVec.ofNat 32 (s.clock + first + held))] ++
          frameEvents s.cfg.bitOrder s.clearFrameStatic) ∧
    (held < dur.toNat →
      ∃ t, steps 2 s = .next t ∧ t.cp = .busy (.hold (BitVec.ofNat 32 (s.clock + first)) dur) ∧
        outputs t.trace = outputs s.trace ++ frameEvents s.cfg.bitOrder s.staticFrame)

/-- 43_static R124, 42_scanner R109: a hold waits until DUR has passed since the read it began with; then the L stored blanks are sent and CP
is READY. A poll changes only the time, so the hold's beginning stays. -/
def Obligations.HoldWaitsThenClears : Prop :=
  ∀ (s : State) (t0 dur : Word32), Running s → s.cp = .busy (.hold t0 dur) →
    ((s.now - t0).toNat < dur.toNat → step s = .next s.afterNow) ∧
    (dur.toNat ≤ (s.now - t0).toNat →
      ∃ t, step s = .next t ∧
        t.trace = s.trace ++ [Event.now s.now] ++
          (List.replicate s.cfg.dispLen (Event.emit (commit s.cfg.polarity 0x00) s.cfg.bitOrder) ++ [Event.latch]) ∧
        t = { s with cp := .ready, timeIn := s.timeIn.tail, clock := s.nextClock, draws := t.draws, trace := t.trace })

/-- 43_static R129: in STATIC mode no step reads SEL, SEL_NONE, SWAPPED, CLEAR_BEFORE, T_CELL_MS or T_FRAME_MS: with other values there it
does the same. DRV stays IDLE. -/
def Obligations.StaticModeIgnoresScanRegisters : Prop :=
  ∀ (s t : State) (sel : List Byte) (selNone : Byte) (swapped clearBefore : Bool) (tCell tFrame : BitVec 16),
    s.Inv → Running s → s.cfg.driveMode = .static →
    let other (r : Registers) : Registers :=
      { r with sel := sel, selNone := selNone, swapped := swapped, clearBefore := clearBefore, tCellMs := tCell, tFrameMs := tFrame }
    (step s = .next t → t.drv = .idle ∧ step { s with cfg := other s.cfg } = .next { t with cfg := other t.cfg }) ∧
    (∀ r, step s = .refused r → step { s with cfg := other s.cfg } = .refused r)

/-! ### Reset -/

/-- 10_state R15, R18, R27, R36, 70_reset R164, R166: release loads every register from the inputs, derives the sections, blanks every cell,
makes DRV IDLE and CP READY, and sends no frame; with an invalid configuration it is refused (00_scope R8). -/
def Obligations.ReleaseLoadsTheConfiguration : Prop :=
  ∀ s : State, s.resetIn = .released → s.inReset = true →
    (configValid s.cfgIn s.glyph = true →
      ∃ t, step s = .next t ∧ t.cfg.polarity = s.cfgIn.polarity ∧ t.cfg.driveMode = s.cfgIn.driveMode ∧
        t.cfg.maxCells = s.cfgIn.maxCells ∧ t.cfg.sections = deriveSections s.cfgIn.maxCells 0 s.cfgIn.secReq ∧
        t.cfg.dispLen = min s.cfgIn.secReq.sum s.cfgIn.maxCells ∧
        t.cfg.sel = (selectTable s.cfgIn).sel ∧ t.cfg.selNone = (selectTable s.cfgIn).selNone ∧
        t.cfg.swapped = s.cfgIn.swapped ∧ t.cfg.bitOrder = s.cfgIn.bitOrder ∧ t.cfg.clearBefore = s.cfgIn.clearBefore ∧
        t.cfg.tCellMs = s.cfgIn.tCellMs ∧ t.cfg.tFrameMs = s.cfgIn.tFrameMs ∧ t.glyph = s.glyph ∧
        (∀ a, t.cell a = commit s.cfgIn.polarity 0x00) ∧ t.cp = .ready ∧ t.drv = .idle ∧ t.inReset = false ∧ t.trace = s.trace) ∧
    (configValid s.cfgIn s.glyph = false → step s = .refused .invalidConfig)

/-- 00_scope R8: which configurations are valid. That T_CELL_MS is at least 1 is the model's reading (log entry 7), and that the ROM's list is
canonical is the model's form of it (log entry 12). -/
def Obligations.ValidConfigurations : Prop :=
  ∀ (c : ConfigInputs) (g : GlyphTable), configValid c g = true ↔
    (1 ≤ c.maxCells ∧ c.maxCells ≤ 8) ∧ (1 ≤ c.secReq.length ∧ c.secReq.length ≤ 16) ∧ (∀ n ∈ c.secReq, 1 ≤ n ∧ n ≤ 255) ∧
    (c.driveMode = .mux → ∀ t, c.customSel = some t → t.sel.length = c.maxCells) ∧ 1 ≤ c.tCellMs.toNat ∧
    (∀ ch : Byte, (glyphOf g ch).getLsbD 0 = false) ∧ Memory.wf 0x00 256 g = true

/-- 30_encoding R64 to R66: the select codes that release loads, the default ones written out, a custom table as given. -/
def Obligations.DefaultSelectCodes : Prop :=
  ∀ c : ConfigInputs, c.maxCells ≤ 8 →
    (c.customSel = none → c.polarity = .cathode →
      selectTable c = { sel := [0x7F, 0xBF, 0xDF, 0xEF, 0xF7, 0xFB, 0xFD, 0xFE].take c.maxCells, selNone := 0xFF }) ∧
    (c.customSel = none → c.polarity = .anode →
      selectTable c = { sel := [0x80, 0x40, 0x20, 0x10, 0x08, 0x04, 0x02, 0x01].take c.maxCells, selNone := 0x00 }) ∧
    (∀ t, c.customSel = some t → selectTable c = t)

/-- 10_state R18, R20: the derived sections follow one another from cell 0 without a gap or an overlap, there are between 1 and
min(S, MAX_CELLS) of them, and L is the requested total cut at MAX_CELLS. -/
def Obligations.DerivedSectionsTileTheBuffer : Prop :=
  ∀ (cap : Nat) (req : List Nat), 1 ≤ cap → req ≠ [] → (∀ n ∈ req, 1 ≤ n) →
    let secs := deriveSections cap 0 req
    1 ≤ secs.length ∧ secs.length ≤ min req.length cap ∧ (∃ r : Section, secs[0]? = some r ∧ r.start = 0) ∧
    (∀ (k : Nat) (r q : Section), secs[k]? = some r → secs[k + 1]? = some q → q.start = r.start + r.len) ∧
    (∀ r ∈ secs, 1 ≤ r.len ∧ r.start + r.len ≤ cap) ∧
    (∀ (k n : Nat) (r : Section), secs[k]? = some r → req[k]? = some n → r.len = min n (cap - r.start)) ∧
    (∀ a, a < sectionsLength secs ↔ ∃ r ∈ secs, r.start ≤ a ∧ a < r.start + r.len) ∧
    (∀ (j k a : Nat) (r q : Section), secs[j]? = some r → secs[k]? = some q → r.start ≤ a → a < r.start + r.len →
      q.start ≤ a → a < q.start + q.len → j = k) ∧
    (∀ r : Section, secs.getLast? = some r → r.start + r.len = sectionsLength secs) ∧
    sectionsLength secs = min req.sum cap ∧ sectionsLength secs ≤ cap

/-- 70_reset R165, 60_exceptions R153: reset asserted after `k` events of a step ends the command in progress: those events stand, no
further one, no clear frame, and the block is in reset with CP READY and DRV IDLE (log entry 14). A read of Now() that is cut off has
not used the time input (log entry 4). -/
def Obligations.AssertedResetCutsTheCommand : Prop :=
  ∀ (s u : State) (k : Nat), s.resetIn = .asserted k → s.inReset = false → run s = .next u →
    ∃ t es, step s = .next t ∧ t.inReset = true ∧ t.cp = .ready ∧ t.drv = .idle ∧
      u.trace = s.trace ++ es ∧ t.trace = s.trace ++ es.take k ++ [Event.reset] ∧
      ((∀ tm, Event.now tm ∉ es.take k) → t.timeIn = s.timeIn ∧ t.clock = s.clock ∧ t.draws = s.draws) ∧
      (∀ tm, Event.now tm ∈ es.take k → t.timeIn = u.timeIn ∧ t.clock = u.clock ∧ t.draws = u.draws)

/-- 70_reset R164: while reset stays asserted nothing is accepted and nothing is emitted. That nothing else changes either and that CMD_READY
is low is the model's choice (log entry 14). -/
def Obligations.ResetHoldsTheBlock : Prop :=
  ∀ (s : State) (k n : Nat), s.resetIn = .asserted k → s.inReset = true → steps n s = .next s ∧ s.cmdReady = false

/-- 70_reset R164, R165, R166: from any state, asserting reset and releasing it with a valid configuration gives the state after reset,
with the port, the time and the glyph ROM as they were; the display keeps the last frame that was latched. -/
def Obligations.ResetRecoversFromAnyState : Prop :=
  ∀ (s : State) (c : ConfigInputs), s.inReset = false → configValid c s.glyph = true →
    ∃ u v, step (s.hostAssertReset 0) = .next u ∧ step (u.hostReleaseReset c) = .next v ∧
      v = { State.resetWith c s.glyph with port := s.port, timeIn := s.timeIn, clock := s.clock, draws := s.draws, trace := v.trace } ∧
      outputs v.trace = outputs s.trace ∧ v.displayed = s.displayed

/-- Log entry 1 (the model's choice of configuration) and 10_state R20, R29, R30: the state after reset meets the invariant. -/
def Obligations.ResetStateMeetsTheInvariant : Prop := State.reset.Inv

/-- 10_state R20, R27, R36: after reset with any valid configuration the state meets the invariant. -/
def Obligations.EveryValidResetMeetsTheInvariant : Prop :=
  ∀ (c : ConfigInputs) (g : GlyphTable), configValid c g = true → (State.resetWith c g).Inv

/-! ### The whole machine -/

/-- 10_state R20, R29, R30, 20_memory R37: every step keeps the invariant: consistent sections, a canonical buffer, and CP, DRV, SCAN_I and
the drive mode in agreement. -/
def Obligations.EveryStepKeepsTheInvariant : Prop := ∀ s t : State, s.Inv → step s = .next t → t.Inv

/-- 60_exceptions R149, R151: from a state that meets the invariant no step faults, and a step that is refused is refused for one of the
three reasons of R151. -/
def Obligations.NoStepFaults : Prop :=
  ∀ s : State, s.Inv → ¬ Faults (step s) ∧
    ∀ r, step s = .refused r → r = .reservedOpcode ∨ r = .reservedField ∨ r = .invalidConfig

/-- 60_exceptions R149, R150: every well-formed command completes or begins its output, in every state with a consistent buffer. -/
def Obligations.EveryCommandHasAnOutcome : Prop :=
  ∀ (s : State) (i : Instr), BufferOk s → ∃ t, exec i s = .next t

/-- 10_state R15, R23, R24: no step outside reset writes a configuration register or the glyph ROM. -/
def Obligations.ConfigurationIsReadOnly : Prop :=
  ∀ s t : State, Running s → step s = .next t → t.cfg = s.cfg ∧ t.glyph = s.glyph ∧ t.cfgIn = s.cfgIn

/-- 30_encoding R80: the SDC emits nothing outside a frame: between steps no byte has been emitted that no latch or reset follows. -/
def Obligations.EveryFrameIsLatched : Prop :=
  ∀ s t : State, (chainView s.trace).pending = [] → step s = .next t → (chainView t.trace).pending = []

/-- 30_encoding R81: every byte of every frame is emitted in the configured bit order. -/
def Obligations.EveryEmitUsesTheBitOrder : Prop :=
  ∀ s t : State, Running s → step s = .next t →
    ∃ es, t.trace = s.trace ++ es ∧ ∀ (b : Byte) (order : BitOrder), Event.emit b order ∈ es → order = s.cfg.bitOrder

/-- 10_state R34, R35: the trace only grows, and time never runs backwards. -/
def Obligations.TraceGrowsAndTimeAdvances : Prop :=
  ∀ s t : State, step s = .next t → (∃ es, t.trace = s.trace ++ es) ∧ s.clock ≤ t.clock

/-- 43_static R126, R127: in STATIC mode a write changes the buffer and not the display, and UPDATE makes the display show the buffer. The
register each cell is in is that of a chain of L registers as 30_encoding R82 assumes it, informative there (log entry 11). -/
def Obligations.DisplayFollowsUpdateNotWrites : Prop :=
  ∀ s : State, (chainView s.trace).pending = [] → s.cfg.driveMode = .static →
    (∀ i sec t, writeSection i = some sec → exec i s = .next t → t.displayed = s.displayed) ∧
    (∀ t, exec .update s = .next t → t.displayed = s.staticFrame ∧
      ∀ a, a < s.cfg.dispLen → chainRegister t.displayed a = some (s.cell a))

/-- 10_state R33: the external chain, its outputs and its shift stages, changes only when the SDC sends something: a step that emits and
latches nothing leaves both as they were, the free values among them (log entry 11). -/
def Obligations.ChainChangesOnlyWhenSent : Prop :=
  ∀ s t : State, step s = .next t → outputs t.trace = outputs s.trace → t.displayed = s.displayed ∧ t.shiftStages = s.shiftStages

/-- 20_memory R37: two canonical buffers whose cells read the same are the same list. -/
def Obligations.EqualCellsAreEqualBuffers : Prop :=
  ∀ (blank : Byte) (len : Nat) (m n : Memory), Memory.wf blank len m = true → Memory.wf blank len n = true →
    (∀ a, Memory.read blank m a = Memory.read blank n a) → m = n

/-! ### The encoder -/

/-- 30_encoding R57, R59, R60, R61, 00_scope R8: the ROM's reference contents are the glyph function of R60, bit 0 clear, and a small letter
has the glyph of its capital. -/
def Obligations.ReferenceGlyphsAreTheTable : Prop :=
  ∀ c : Byte, glyphOf referenceGlyphs c = referenceGlyphAt c.toNat ∧ (glyphOf referenceGlyphs c).getLsbD 0 = false ∧
    (0x61 ≤ c.toNat → c.toNat ≤ 0x7A → glyphOf referenceGlyphs c = glyphOf referenceGlyphs (c - 0x20))

/-- 30_encoding R57, R61: the bytes of the digit, minus and letter glyphs. -/
def Obligations.GlyphBytes : Prop :=
  ∀ p ∈ ([(0x30, 0xFC), (0x31, 0x60), (0x32, 0xDA), (0x33, 0xF2), (0x34, 0x66), (0x35, 0xB6), (0x36, 0xBE), (0x37, 0xE0),
      (0x38, 0xFE), (0x39, 0xF6), (0x2D, 0x02)] ++
    [(0x41, 0xEE), (0x42, 0x3E), (0x43, 0x9C), (0x44, 0x7A), (0x45, 0x9E), (0x46, 0x8E), (0x47, 0xBC), (0x48, 0x6E), (0x49, 0x0C),
      (0x4A, 0x78), (0x4B, 0xAE), (0x4C, 0x1C), (0x4D, 0xA8)] ++
    [(0x4E, 0x2A), (0x4F, 0x3A), (0x50, 0xCE), (0x51, 0xE6), (0x52, 0x0A), (0x53, 0xB6), (0x54, 0x1E), (0x55, 0x7C), (0x56, 0x38),
      (0x57, 0x54), (0x58, 0x6E), (0x59, 0x76), (0x5A, 0xDA)] : List (Byte × Byte)), glyphOf referenceGlyphs p.1 = p.2

/-- 30_encoding R62, 40_encoder R88, R90, R91: a digit written through the encoder, with or without its dot, under either polarity, decodes
to itself. -/
def Obligations.StoredDigitsDecode : Prop :=
  ∀ (p : Polarity) (d : Nat) (dot : Bool), d < 10 →
    decodeDigit referenceGlyphs (commit p (commit p (enc referenceGlyphs ⟨digitChar d, dot⟩))) = some d ∧
    (enc referenceGlyphs ⟨digitChar d, dot⟩).getLsbD 0 = dot

/-! ### The host reference procedure -/

/-- 47_host R138, R139, R142, 95_test_vectors E6: a right-aligned non-negative integer that fits fills the window with blanks on the left and
its digits on the right, and reading the digit codes back gives the integer. -/
def Obligations.RightAlignedIntegersRoundTrip : Prop :=
  ∀ (v w : Nat), (formatInt v).length ≤ w →
    let win := layout (plainCells (formatInt v)) w .right none false
    win.ok = true ∧ win.cells.length = w ∧
    (∀ x ∈ win.cells.take (w - (formatInt v).length), enc referenceGlyphs x = 0x00) ∧
    numberOf ((win.cells.drop (w - (formatInt v).length)).filterMap (fun x => decodeDigit referenceGlyphs (enc referenceGlyphs x))) = v

/-- 47_host R132, R138, R139, R142, 95_test_vectors E7: a right-aligned negative integer that fits shows blanks, one minus, then its digits;
one that does not fit reports overflow. -/
def Obligations.NegativeIntegersShowOneMinus : Prop :=
  ∀ (v w : Nat), 1 ≤ v →
    let digits := decimalDigits v
    let win := layout (plainCells (formatInt (-(v : Int)))) w .right none false
    (digits.length + 1 ≤ w →
      win = { cells := plainCells (List.replicate (w - digits.length - 1) spaceChar ++ minusChar :: digits), ok := true } ∧
      minusChar ∉ digits) ∧
    (w < digits.length + 1 → win.ok = false)

/-- 47_host R135, R136: a real in (-1, 0) that does not round to zero or to -1 (log entry 16) formats as a minus, a zero and N fraction
digits, with the point N places from the right. The fraction digits are digits, and write |ROUND(x * 10^N)| with zeros before it. -/
def Obligations.SmallNegativeRealsKeepTheirZero : Prop :=
  ∀ (x : Rat) (n : Fin 10), 1 ≤ n.val → -1 < x → x < 0 →
    let m := roundHalfAway (x * (10 ^ n.val : Nat))
    m < 0 → -(10 ^ n.val : Int) < m →
    let frac := List.replicate (n.val - (decimalDigits m.natAbs).length) zeroChar ++ decimalDigits m.natAbs
    formatReal x n = { chars := minusChar :: zeroChar :: frac, point := some n.val } ∧ frac.length = n.val ∧
      (∀ ch ∈ frac, 0x30 ≤ ch.toNat ∧ ch.toNat ≤ 0x39) ∧ numberOf (frac.map (fun ch => ch.toNat - 0x30)) = m.natAbs

/-- 47_host R145, R148: a value-setting call to a valid section sends a WCHR of exactly that section's length, which the block's check
passes; a call of any kind to an invalid section, of any index, sends nothing and reports no overflow. -/
def Obligations.HostWindowFitsItsSection : Prop :=
  ∀ (s : State) (c : HostCall), registersOk s.cfg = true →
    (∀ r, (∀ sec codes, c ≠ .setRaw sec codes) → s.cfg.sections[c.section]? = some r →
      ∃ sec chars, (hostCall s.cfg.sections c).sent = some (.wchr sec chars) ∧ sec.toNat = c.section ∧ chars.length = r.len ∧
        s.secOk sec chars.length = true) ∧
    (s.cfg.nsec ≤ c.section → hostCall s.cfg.sections c = { sent := none, ok := true })
end

