-- ==== Sys2Proof/Laws/Decode.lean ====
section
/-! SUPPORT. The small lemmas of the decoder's and encoder's parts. -/

namespace Sys2Proof

-- One lemma at a time: elaborated side by side they take a thread each, and the threads' stacks count against the memory limit.
set_option Elab.async false

theorem header_cases : (∀ op sec : BitVec 4, opField (header op sec) = op ∧ secField (header op sec) = sec) ∧
    ∀ h : Byte, header (opField h) (secField h) = h := by decide +kernel

@[simp] theorem opField_header (op sec : BitVec 4) : opField (header op sec) = op := (header_cases.1 op sec).1

@[simp] theorem secField_header (op sec : BitVec 4) : secField (header op sec) = sec := (header_cases.1 op sec).2

/-- A header is its two fields. -/
theorem header_fields (h : Byte) : header (opField h) (secField h) = h := header_cases.2 h

@[simp] theorem flagOk_flagByte (on : Bool) : flagOk (flagByte on) = true := by cases on <;> decide

theorem flagByte_bit (on : Bool) : (flagByte on).getLsbD 0 = on := by cases on <;> decide

/-- A flag byte that passes the reserved-field check is the flag byte of its bit 0. -/
theorem flagByte_of_flagOk : ∀ f : Byte, flagOk f = true → flagByte (f.getLsbD 0) = f := by decide +kernel

theorem takeBytes_append (bs rest : List Byte) : takeBytes bs.length (bs ++ rest) = some (bs, rest) := by
  induction bs with
  | nil => rfl
  | cons b bs ih => simp [takeBytes, ih]

/-- What takeBytes answers is a split of its input. -/
theorem takeBytes_split : ∀ (n : Nat) (bs xs rest : List Byte), takeBytes n bs = some (xs, rest) → bs = xs ++ rest ∧ xs.length = n := by
  intro n
  induction n with
  | zero => intro bs xs rest h; simp only [takeBytes, Option.some.injEq, Prod.mk.injEq] at h; obtain ⟨rfl, rfl⟩ := h; simp
  | succ n ih =>
    intro bs xs rest h
    cases bs with
    | nil => simp [takeBytes] at h
    | cons b bs =>
      simp only [takeBytes] at h
      split at h
      · next ys r hy =>
        simp only [Option.some.injEq, Prod.mk.injEq] at h
        obtain ⟨rfl, rfl⟩ := h
        obtain ⟨e, l⟩ := ih _ _ _ hy
        exact ⟨by rw [e]; rfl, by simp [l]⟩
      · simp at h

theorem takePairs_charBytes (cs : List CharCell) (rest : List Byte) :
    takePairs cs.length (cs.flatMap charBytes ++ rest) = some (cs.map (fun c => (c.ch, flagByte c.dot)), rest) := by
  induction cs with
  | nil => rfl
  | cons c cs ih => simp [takePairs, charBytes, List.flatMap_cons, ih]

/-- What takePairs answers is a split of its input. -/
theorem takePairs_split : ∀ (n : Nat) (bs : List Byte) (ps : List (Byte × Byte)) (rest : List Byte),
    takePairs n bs = some (ps, rest) → bs = ps.flatMap (fun p => [p.1, p.2]) ++ rest ∧ ps.length = n := by
  intro n
  induction n with
  | zero => intro bs ps rest h; simp only [takePairs, Option.some.injEq, Prod.mk.injEq] at h; obtain ⟨rfl, rfl⟩ := h; simp
  | succ n ih =>
    intro bs ps rest h
    match bs with
    | [] => simp [takePairs] at h
    | [_] => simp [takePairs] at h
    | c :: f :: bs =>
      simp only [takePairs] at h
      split at h
      · next ys r hy =>
        simp only [Option.some.injEq, Prod.mk.injEq] at h
        obtain ⟨rfl, rfl⟩ := h
        obtain ⟨e, l⟩ := ih _ _ _ hy
        exact ⟨by rw [e]; simp, by simp [l]⟩
      · simp at h

/-- A WCHR position survives its two bytes. -/
@[simp] theorem charCell_charBytes (c : CharCell) : charCell (c.ch, flagByte c.dot) = c := by
  simp only [charCell, flagByte_bit]

theorem charBytes_length (cs : List CharCell) : (cs.flatMap charBytes).length = 2 * cs.length := by
  induction cs with
  | nil => rfl
  | cons c cs ih => simp [charBytes, List.flatMap_cons, ih]; omega

end Sys2Proof
end

