-- ==== Sys2Proof/Laws/State.lean ====
section
/-! SUPPORT. One lemma for each field of State under each update, true by rfl, so that no later proof unfolds a record update. -/

namespace Sys2Proof.Machine

-- One lemma at a time: elaborated side by side they take a thread each, and the threads' stacks count against the memory limit.
set_option Elab.async false

variable (s : State)

/-! ### setCells -/

@[simp] theorem State.setCells_cfg (m : Memory) : (s.setCells m).cfg = s.cfg := rfl
@[simp] theorem State.setCells_glyph (m : Memory) : (s.setCells m).glyph = s.glyph := rfl
@[simp] theorem State.setCells_cells (m : Memory) : (s.setCells m).cells = m := rfl
@[simp] theorem State.setCells_cp (m : Memory) : (s.setCells m).cp = s.cp := rfl
@[simp] theorem State.setCells_drv (m : Memory) : (s.setCells m).drv = s.drv := rfl
@[simp] theorem State.setCells_scanT0 (m : Memory) : (s.setCells m).scanT0 = s.scanT0 := rfl
@[simp] theorem State.setCells_scanDur (m : Memory) : (s.setCells m).scanDur = s.scanDur := rfl
@[simp] theorem State.setCells_scanI (m : Memory) : (s.setCells m).scanI = s.scanI := rfl
@[simp] theorem State.setCells_port (m : Memory) : (s.setCells m).port = s.port := rfl
@[simp] theorem State.setCells_resetIn (m : Memory) : (s.setCells m).resetIn = s.resetIn := rfl
@[simp] theorem State.setCells_inReset (m : Memory) : (s.setCells m).inReset = s.inReset := rfl
@[simp] theorem State.setCells_cfgIn (m : Memory) : (s.setCells m).cfgIn = s.cfgIn := rfl
@[simp] theorem State.setCells_timeIn (m : Memory) : (s.setCells m).timeIn = s.timeIn := rfl
@[simp] theorem State.setCells_clock (m : Memory) : (s.setCells m).clock = s.clock := rfl
@[simp] theorem State.setCells_draws (m : Memory) : (s.setCells m).draws = s.draws := rfl
@[simp] theorem State.setCells_trace (m : Memory) : (s.setCells m).trace = s.trace := rfl
@[simp] theorem State.setCells_blank (m : Memory) : (s.setCells m).blank = s.blank := rfl
@[simp] theorem State.setCells_tPass (m : Memory) : (s.setCells m).tPass = s.tPass := rfl
@[simp] theorem State.setCells_clearFrameMux (m : Memory) : (s.setCells m).clearFrameMux = s.clearFrameMux := rfl
@[simp] theorem State.setCells_clearFrameStatic (m : Memory) : (s.setCells m).clearFrameStatic = s.clearFrameStatic := rfl

/-! ### setCp -/

@[simp] theorem State.setCp_cfg (c : CP) : (s.setCp c).cfg = s.cfg := rfl
@[simp] theorem State.setCp_glyph (c : CP) : (s.setCp c).glyph = s.glyph := rfl
@[simp] theorem State.setCp_cells (c : CP) : (s.setCp c).cells = s.cells := rfl
@[simp] theorem State.setCp_cp (c : CP) : (s.setCp c).cp = c := rfl
@[simp] theorem State.setCp_drv (c : CP) : (s.setCp c).drv = s.drv := rfl
@[simp] theorem State.setCp_scanT0 (c : CP) : (s.setCp c).scanT0 = s.scanT0 := rfl
@[simp] theorem State.setCp_scanDur (c : CP) : (s.setCp c).scanDur = s.scanDur := rfl
@[simp] theorem State.setCp_scanI (c : CP) : (s.setCp c).scanI = s.scanI := rfl
@[simp] theorem State.setCp_port (c : CP) : (s.setCp c).port = s.port := rfl
@[simp] theorem State.setCp_resetIn (c : CP) : (s.setCp c).resetIn = s.resetIn := rfl
@[simp] theorem State.setCp_inReset (c : CP) : (s.setCp c).inReset = s.inReset := rfl
@[simp] theorem State.setCp_cfgIn (c : CP) : (s.setCp c).cfgIn = s.cfgIn := rfl
@[simp] theorem State.setCp_timeIn (c : CP) : (s.setCp c).timeIn = s.timeIn := rfl
@[simp] theorem State.setCp_clock (c : CP) : (s.setCp c).clock = s.clock := rfl
@[simp] theorem State.setCp_draws (c : CP) : (s.setCp c).draws = s.draws := rfl
@[simp] theorem State.setCp_trace (c : CP) : (s.setCp c).trace = s.trace := rfl
@[simp] theorem State.setCp_blank (c : CP) : (s.setCp c).blank = s.blank := rfl
@[simp] theorem State.setCp_tPass (c : CP) : (s.setCp c).tPass = s.tPass := rfl
@[simp] theorem State.setCp_clearFrameMux (c : CP) : (s.setCp c).clearFrameMux = s.clearFrameMux := rfl
@[simp] theorem State.setCp_clearFrameStatic (c : CP) : (s.setCp c).clearFrameStatic = s.clearFrameStatic := rfl
@[simp] theorem State.setCp_cell (c : CP) (a : Nat) : (s.setCp c).cell a = s.cell a := rfl
@[simp] theorem State.setCp_staticFrame (c : CP) : (s.setCp c).staticFrame = s.staticFrame := rfl

/-! ### setDrv -/

@[simp] theorem State.setDrv_cfg (d : Drv) : (s.setDrv d).cfg = s.cfg := rfl
@[simp] theorem State.setDrv_glyph (d : Drv) : (s.setDrv d).glyph = s.glyph := rfl
@[simp] theorem State.setDrv_cells (d : Drv) : (s.setDrv d).cells = s.cells := rfl
@[simp] theorem State.setDrv_cp (d : Drv) : (s.setDrv d).cp = s.cp := rfl
@[simp] theorem State.setDrv_drv (d : Drv) : (s.setDrv d).drv = d := rfl
@[simp] theorem State.setDrv_scanT0 (d : Drv) : (s.setDrv d).scanT0 = s.scanT0 := rfl
@[simp] theorem State.setDrv_scanDur (d : Drv) : (s.setDrv d).scanDur = s.scanDur := rfl
@[simp] theorem State.setDrv_scanI (d : Drv) : (s.setDrv d).scanI = s.scanI := rfl
@[simp] theorem State.setDrv_port (d : Drv) : (s.setDrv d).port = s.port := rfl
@[simp] theorem State.setDrv_resetIn (d : Drv) : (s.setDrv d).resetIn = s.resetIn := rfl
@[simp] theorem State.setDrv_inReset (d : Drv) : (s.setDrv d).inReset = s.inReset := rfl
@[simp] theorem State.setDrv_cfgIn (d : Drv) : (s.setDrv d).cfgIn = s.cfgIn := rfl
@[simp] theorem State.setDrv_timeIn (d : Drv) : (s.setDrv d).timeIn = s.timeIn := rfl
@[simp] theorem State.setDrv_clock (d : Drv) : (s.setDrv d).clock = s.clock := rfl
@[simp] theorem State.setDrv_draws (d : Drv) : (s.setDrv d).draws = s.draws := rfl
@[simp] theorem State.setDrv_trace (d : Drv) : (s.setDrv d).trace = s.trace := rfl
@[simp] theorem State.setDrv_blank (d : Drv) : (s.setDrv d).blank = s.blank := rfl
@[simp] theorem State.setDrv_tPass (d : Drv) : (s.setDrv d).tPass = s.tPass := rfl
@[simp] theorem State.setDrv_clearFrameMux (d : Drv) : (s.setDrv d).clearFrameMux = s.clearFrameMux := rfl
@[simp] theorem State.setDrv_clearFrameStatic (d : Drv) : (s.setDrv d).clearFrameStatic = s.clearFrameStatic := rfl
@[simp] theorem State.setDrv_cell (d : Drv) (a : Nat) : (s.setDrv d).cell a = s.cell a := rfl
@[simp] theorem State.setDrv_staticFrame (d : Drv) : (s.setDrv d).staticFrame = s.staticFrame := rfl

/-! ### setScan -/

@[simp] theorem State.setScan_cfg (t0 dur : Word32) : (s.setScan t0 dur).cfg = s.cfg := rfl
@[simp] theorem State.setScan_glyph (t0 dur : Word32) : (s.setScan t0 dur).glyph = s.glyph := rfl
@[simp] theorem State.setScan_cells (t0 dur : Word32) : (s.setScan t0 dur).cells = s.cells := rfl
@[simp] theorem State.setScan_cp (t0 dur : Word32) : (s.setScan t0 dur).cp = s.cp := rfl
@[simp] theorem State.setScan_drv (t0 dur : Word32) : (s.setScan t0 dur).drv = s.drv := rfl
@[simp] theorem State.setScan_scanT0 (t0 dur : Word32) : (s.setScan t0 dur).scanT0 = t0 := rfl
@[simp] theorem State.setScan_scanDur (t0 dur : Word32) : (s.setScan t0 dur).scanDur = dur := rfl
@[simp] theorem State.setScan_scanI (t0 dur : Word32) : (s.setScan t0 dur).scanI = s.scanI := rfl
@[simp] theorem State.setScan_port (t0 dur : Word32) : (s.setScan t0 dur).port = s.port := rfl
@[simp] theorem State.setScan_resetIn (t0 dur : Word32) : (s.setScan t0 dur).resetIn = s.resetIn := rfl
@[simp] theorem State.setScan_inReset (t0 dur : Word32) : (s.setScan t0 dur).inReset = s.inReset := rfl
@[simp] theorem State.setScan_cfgIn (t0 dur : Word32) : (s.setScan t0 dur).cfgIn = s.cfgIn := rfl
@[simp] theorem State.setScan_timeIn (t0 dur : Word32) : (s.setScan t0 dur).timeIn = s.timeIn := rfl
@[simp] theorem State.setScan_clock (t0 dur : Word32) : (s.setScan t0 dur).clock = s.clock := rfl
@[simp] theorem State.setScan_draws (t0 dur : Word32) : (s.setScan t0 dur).draws = s.draws := rfl
@[simp] theorem State.setScan_trace (t0 dur : Word32) : (s.setScan t0 dur).trace = s.trace := rfl
@[simp] theorem State.setScan_blank (t0 dur : Word32) : (s.setScan t0 dur).blank = s.blank := rfl
@[simp] theorem State.setScan_tPass (t0 dur : Word32) : (s.setScan t0 dur).tPass = s.tPass := rfl
@[simp] theorem State.setScan_clearFrameMux (t0 dur : Word32) : (s.setScan t0 dur).clearFrameMux = s.clearFrameMux := rfl
@[simp] theorem State.setScan_clearFrameStatic (t0 dur : Word32) : (s.setScan t0 dur).clearFrameStatic = s.clearFrameStatic := rfl
@[simp] theorem State.setScan_cell (t0 dur : Word32) (a : Nat) : (s.setScan t0 dur).cell a = s.cell a := rfl
@[simp] theorem State.setScan_staticFrame (t0 dur : Word32) : (s.setScan t0 dur).staticFrame = s.staticFrame := rfl

/-! ### setScanI -/

@[simp] theorem State.setScanI_cfg (i : Nat) : (s.setScanI i).cfg = s.cfg := rfl
@[simp] theorem State.setScanI_glyph (i : Nat) : (s.setScanI i).glyph = s.glyph := rfl
@[simp] theorem State.setScanI_cells (i : Nat) : (s.setScanI i).cells = s.cells := rfl
@[simp] theorem State.setScanI_cp (i : Nat) : (s.setScanI i).cp = s.cp := rfl
@[simp] theorem State.setScanI_drv (i : Nat) : (s.setScanI i).drv = s.drv := rfl
@[simp] theorem State.setScanI_scanT0 (i : Nat) : (s.setScanI i).scanT0 = s.scanT0 := rfl
@[simp] theorem State.setScanI_scanDur (i : Nat) : (s.setScanI i).scanDur = s.scanDur := rfl
@[simp] theorem State.setScanI_scanI (i : Nat) : (s.setScanI i).scanI = i := rfl
@[simp] theorem State.setScanI_port (i : Nat) : (s.setScanI i).port = s.port := rfl
@[simp] theorem State.setScanI_resetIn (i : Nat) : (s.setScanI i).resetIn = s.resetIn := rfl
@[simp] theorem State.setScanI_inReset (i : Nat) : (s.setScanI i).inReset = s.inReset := rfl
@[simp] theorem State.setScanI_cfgIn (i : Nat) : (s.setScanI i).cfgIn = s.cfgIn := rfl
@[simp] theorem State.setScanI_timeIn (i : Nat) : (s.setScanI i).timeIn = s.timeIn := rfl
@[simp] theorem State.setScanI_clock (i : Nat) : (s.setScanI i).clock = s.clock := rfl
@[simp] theorem State.setScanI_draws (i : Nat) : (s.setScanI i).draws = s.draws := rfl
@[simp] theorem State.setScanI_trace (i : Nat) : (s.setScanI i).trace = s.trace := rfl
@[simp] theorem State.setScanI_blank (i : Nat) : (s.setScanI i).blank = s.blank := rfl
@[simp] theorem State.setScanI_tPass (i : Nat) : (s.setScanI i).tPass = s.tPass := rfl
@[simp] theorem State.setScanI_clearFrameMux (i : Nat) : (s.setScanI i).clearFrameMux = s.clearFrameMux := rfl
@[simp] theorem State.setScanI_clearFrameStatic (i : Nat) : (s.setScanI i).clearFrameStatic = s.clearFrameStatic := rfl
@[simp] theorem State.setScanI_cell (i : Nat) (a : Nat) : (s.setScanI i).cell a = s.cell a := rfl
@[simp] theorem State.setScanI_staticFrame (i : Nat) : (s.setScanI i).staticFrame = s.staticFrame := rfl

/-! ### setPort -/

@[simp] theorem State.setPort_cfg (bs : List Byte) : (s.setPort bs).cfg = s.cfg := rfl
@[simp] theorem State.setPort_glyph (bs : List Byte) : (s.setPort bs).glyph = s.glyph := rfl
@[simp] theorem State.setPort_cells (bs : List Byte) : (s.setPort bs).cells = s.cells := rfl
@[simp] theorem State.setPort_cp (bs : List Byte) : (s.setPort bs).cp = s.cp := rfl
@[simp] theorem State.setPort_drv (bs : List Byte) : (s.setPort bs).drv = s.drv := rfl
@[simp] theorem State.setPort_scanT0 (bs : List Byte) : (s.setPort bs).scanT0 = s.scanT0 := rfl
@[simp] theorem State.setPort_scanDur (bs : List Byte) : (s.setPort bs).scanDur = s.scanDur := rfl
@[simp] theorem State.setPort_scanI (bs : List Byte) : (s.setPort bs).scanI = s.scanI := rfl
@[simp] theorem State.setPort_port (bs : List Byte) : (s.setPort bs).port = bs := rfl
@[simp] theorem State.setPort_resetIn (bs : List Byte) : (s.setPort bs).resetIn = s.resetIn := rfl
@[simp] theorem State.setPort_inReset (bs : List Byte) : (s.setPort bs).inReset = s.inReset := rfl
@[simp] theorem State.setPort_cfgIn (bs : List Byte) : (s.setPort bs).cfgIn = s.cfgIn := rfl
@[simp] theorem State.setPort_timeIn (bs : List Byte) : (s.setPort bs).timeIn = s.timeIn := rfl
@[simp] theorem State.setPort_clock (bs : List Byte) : (s.setPort bs).clock = s.clock := rfl
@[simp] theorem State.setPort_draws (bs : List Byte) : (s.setPort bs).draws = s.draws := rfl
@[simp] theorem State.setPort_trace (bs : List Byte) : (s.setPort bs).trace = s.trace := rfl
@[simp] theorem State.setPort_blank (bs : List Byte) : (s.setPort bs).blank = s.blank := rfl
@[simp] theorem State.setPort_tPass (bs : List Byte) : (s.setPort bs).tPass = s.tPass := rfl
@[simp] theorem State.setPort_clearFrameMux (bs : List Byte) : (s.setPort bs).clearFrameMux = s.clearFrameMux := rfl
@[simp] theorem State.setPort_clearFrameStatic (bs : List Byte) : (s.setPort bs).clearFrameStatic = s.clearFrameStatic := rfl
@[simp] theorem State.setPort_cell (bs : List Byte) (a : Nat) : (s.setPort bs).cell a = s.cell a := rfl
@[simp] theorem State.setPort_staticFrame (bs : List Byte) : (s.setPort bs).staticFrame = s.staticFrame := rfl

/-! ### addEvents -/

@[simp] theorem State.addEvents_cfg (es : List Event) : (s.addEvents es).cfg = s.cfg := rfl
@[simp] theorem State.addEvents_glyph (es : List Event) : (s.addEvents es).glyph = s.glyph := rfl
@[simp] theorem State.addEvents_cells (es : List Event) : (s.addEvents es).cells = s.cells := rfl
@[simp] theorem State.addEvents_cp (es : List Event) : (s.addEvents es).cp = s.cp := rfl
@[simp] theorem State.addEvents_drv (es : List Event) : (s.addEvents es).drv = s.drv := rfl
@[simp] theorem State.addEvents_scanT0 (es : List Event) : (s.addEvents es).scanT0 = s.scanT0 := rfl
@[simp] theorem State.addEvents_scanDur (es : List Event) : (s.addEvents es).scanDur = s.scanDur := rfl
@[simp] theorem State.addEvents_scanI (es : List Event) : (s.addEvents es).scanI = s.scanI := rfl
@[simp] theorem State.addEvents_port (es : List Event) : (s.addEvents es).port = s.port := rfl
@[simp] theorem State.addEvents_resetIn (es : List Event) : (s.addEvents es).resetIn = s.resetIn := rfl
@[simp] theorem State.addEvents_inReset (es : List Event) : (s.addEvents es).inReset = s.inReset := rfl
@[simp] theorem State.addEvents_cfgIn (es : List Event) : (s.addEvents es).cfgIn = s.cfgIn := rfl
@[simp] theorem State.addEvents_timeIn (es : List Event) : (s.addEvents es).timeIn = s.timeIn := rfl
@[simp] theorem State.addEvents_clock (es : List Event) : (s.addEvents es).clock = s.clock := rfl
@[simp] theorem State.addEvents_draws (es : List Event) : (s.addEvents es).draws = s.draws := rfl
@[simp] theorem State.addEvents_trace (es : List Event) : (s.addEvents es).trace = s.trace ++ es := rfl
@[simp] theorem State.addEvents_blank (es : List Event) : (s.addEvents es).blank = s.blank := rfl
@[simp] theorem State.addEvents_tPass (es : List Event) : (s.addEvents es).tPass = s.tPass := rfl
@[simp] theorem State.addEvents_clearFrameMux (es : List Event) : (s.addEvents es).clearFrameMux = s.clearFrameMux := rfl
@[simp] theorem State.addEvents_clearFrameStatic (es : List Event) : (s.addEvents es).clearFrameStatic = s.clearFrameStatic := rfl
@[simp] theorem State.addEvents_cell (es : List Event) (a : Nat) : (s.addEvents es).cell a = s.cell a := rfl
@[simp] theorem State.addEvents_staticFrame (es : List Event) : (s.addEvents es).staticFrame = s.staticFrame := rfl

/-! ### setTime -/

@[simp] theorem State.setTime_cfg (ahead : List Nat) (clock draws : Nat) : (s.setTime ahead clock draws).cfg = s.cfg := rfl
@[simp] theorem State.setTime_glyph (ahead : List Nat) (clock draws : Nat) : (s.setTime ahead clock draws).glyph = s.glyph := rfl
@[simp] theorem State.setTime_cells (ahead : List Nat) (clock draws : Nat) : (s.setTime ahead clock draws).cells = s.cells := rfl
@[simp] theorem State.setTime_cp (ahead : List Nat) (clock draws : Nat) : (s.setTime ahead clock draws).cp = s.cp := rfl
@[simp] theorem State.setTime_drv (ahead : List Nat) (clock draws : Nat) : (s.setTime ahead clock draws).drv = s.drv := rfl
@[simp] theorem State.setTime_scanT0 (ahead : List Nat) (clock draws : Nat) : (s.setTime ahead clock draws).scanT0 = s.scanT0 := rfl
@[simp] theorem State.setTime_scanDur (ahead : List Nat) (clock draws : Nat) : (s.setTime ahead clock draws).scanDur = s.scanDur := rfl
@[simp] theorem State.setTime_scanI (ahead : List Nat) (clock draws : Nat) : (s.setTime ahead clock draws).scanI = s.scanI := rfl
@[simp] theorem State.setTime_port (ahead : List Nat) (clock draws : Nat) : (s.setTime ahead clock draws).port = s.port := rfl
@[simp] theorem State.setTime_resetIn (ahead : List Nat) (clock draws : Nat) : (s.setTime ahead clock draws).resetIn = s.resetIn := rfl
@[simp] theorem State.setTime_inReset (ahead : List Nat) (clock draws : Nat) : (s.setTime ahead clock draws).inReset = s.inReset := rfl
@[simp] theorem State.setTime_cfgIn (ahead : List Nat) (clock draws : Nat) : (s.setTime ahead clock draws).cfgIn = s.cfgIn := rfl
@[simp] theorem State.setTime_timeIn (ahead : List Nat) (clock draws : Nat) : (s.setTime ahead clock draws).timeIn = ahead := rfl
@[simp] theorem State.setTime_clock (ahead : List Nat) (clock draws : Nat) : (s.setTime ahead clock draws).clock = clock := rfl
@[simp] theorem State.setTime_draws (ahead : List Nat) (clock draws : Nat) : (s.setTime ahead clock draws).draws = draws := rfl
@[simp] theorem State.setTime_trace (ahead : List Nat) (clock draws : Nat) : (s.setTime ahead clock draws).trace = s.trace := rfl
@[simp] theorem State.setTime_blank (ahead : List Nat) (clock draws : Nat) : (s.setTime ahead clock draws).blank = s.blank := rfl
@[simp] theorem State.setTime_tPass (ahead : List Nat) (clock draws : Nat) : (s.setTime ahead clock draws).tPass = s.tPass := rfl
@[simp] theorem State.setTime_clearFrameMux (ahead : List Nat) (clock draws : Nat) : (s.setTime ahead clock draws).clearFrameMux = s.clearFrameMux := rfl
@[simp] theorem State.setTime_clearFrameStatic (ahead : List Nat) (clock draws : Nat) : (s.setTime ahead clock draws).clearFrameStatic = s.clearFrameStatic := rfl
@[simp] theorem State.setTime_cell (ahead : List Nat) (clock draws : Nat) (a : Nat) : (s.setTime ahead clock draws).cell a = s.cell a := rfl
@[simp] theorem State.setTime_staticFrame (ahead : List Nat) (clock draws : Nat) : (s.setTime ahead clock draws).staticFrame = s.staticFrame := rfl

/-! ### sendFrame -/

@[simp] theorem State.sendFrame_cfg (bs : List Byte) : (s.sendFrame bs).cfg = s.cfg := rfl
@[simp] theorem State.sendFrame_glyph (bs : List Byte) : (s.sendFrame bs).glyph = s.glyph := rfl
@[simp] theorem State.sendFrame_cells (bs : List Byte) : (s.sendFrame bs).cells = s.cells := rfl
@[simp] theorem State.sendFrame_cp (bs : List Byte) : (s.sendFrame bs).cp = s.cp := rfl
@[simp] theorem State.sendFrame_drv (bs : List Byte) : (s.sendFrame bs).drv = s.drv := rfl
@[simp] theorem State.sendFrame_scanT0 (bs : List Byte) : (s.sendFrame bs).scanT0 = s.scanT0 := rfl
@[simp] theorem State.sendFrame_scanDur (bs : List Byte) : (s.sendFrame bs).scanDur = s.scanDur := rfl
@[simp] theorem State.sendFrame_scanI (bs : List Byte) : (s.sendFrame bs).scanI = s.scanI := rfl
@[simp] theorem State.sendFrame_port (bs : List Byte) : (s.sendFrame bs).port = s.port := rfl
@[simp] theorem State.sendFrame_resetIn (bs : List Byte) : (s.sendFrame bs).resetIn = s.resetIn := rfl
@[simp] theorem State.sendFrame_inReset (bs : List Byte) : (s.sendFrame bs).inReset = s.inReset := rfl
@[simp] theorem State.sendFrame_cfgIn (bs : List Byte) : (s.sendFrame bs).cfgIn = s.cfgIn := rfl
@[simp] theorem State.sendFrame_timeIn (bs : List Byte) : (s.sendFrame bs).timeIn = s.timeIn := rfl
@[simp] theorem State.sendFrame_clock (bs : List Byte) : (s.sendFrame bs).clock = s.clock := rfl
@[simp] theorem State.sendFrame_draws (bs : List Byte) : (s.sendFrame bs).draws = s.draws := rfl
@[simp] theorem State.sendFrame_trace (bs : List Byte) : (s.sendFrame bs).trace = s.trace ++ frameEvents s.cfg.bitOrder bs := rfl
@[simp] theorem State.sendFrame_blank (bs : List Byte) : (s.sendFrame bs).blank = s.blank := rfl
@[simp] theorem State.sendFrame_tPass (bs : List Byte) : (s.sendFrame bs).tPass = s.tPass := rfl
@[simp] theorem State.sendFrame_clearFrameMux (bs : List Byte) : (s.sendFrame bs).clearFrameMux = s.clearFrameMux := rfl
@[simp] theorem State.sendFrame_clearFrameStatic (bs : List Byte) : (s.sendFrame bs).clearFrameStatic = s.clearFrameStatic := rfl
@[simp] theorem State.sendFrame_cell (bs : List Byte) (a : Nat) : (s.sendFrame bs).cell a = s.cell a := rfl
@[simp] theorem State.sendFrame_staticFrame (bs : List Byte) : (s.sendFrame bs).staticFrame = s.staticFrame := rfl

/-! ### afterNow -/

@[simp] theorem State.afterNow_cfg : (s.afterNow).cfg = s.cfg := rfl
@[simp] theorem State.afterNow_glyph : (s.afterNow).glyph = s.glyph := rfl
@[simp] theorem State.afterNow_cells : (s.afterNow).cells = s.cells := rfl
@[simp] theorem State.afterNow_cp : (s.afterNow).cp = s.cp := rfl
@[simp] theorem State.afterNow_drv : (s.afterNow).drv = s.drv := rfl
@[simp] theorem State.afterNow_scanT0 : (s.afterNow).scanT0 = s.scanT0 := rfl
@[simp] theorem State.afterNow_scanDur : (s.afterNow).scanDur = s.scanDur := rfl
@[simp] theorem State.afterNow_scanI : (s.afterNow).scanI = s.scanI := rfl
@[simp] theorem State.afterNow_port : (s.afterNow).port = s.port := rfl
@[simp] theorem State.afterNow_resetIn : (s.afterNow).resetIn = s.resetIn := rfl
@[simp] theorem State.afterNow_inReset : (s.afterNow).inReset = s.inReset := rfl
@[simp] theorem State.afterNow_cfgIn : (s.afterNow).cfgIn = s.cfgIn := rfl
@[simp] theorem State.afterNow_timeIn : (s.afterNow).timeIn = s.timeIn.tail := rfl
@[simp] theorem State.afterNow_clock : (s.afterNow).clock = s.nextClock := rfl
@[simp] theorem State.afterNow_draws : (s.afterNow).draws = if s.timeIn.isEmpty then s.draws + 1 else s.draws := rfl
@[simp] theorem State.afterNow_trace : (s.afterNow).trace = s.trace ++ [Event.now s.now] := rfl
@[simp] theorem State.afterNow_blank : (s.afterNow).blank = s.blank := rfl
@[simp] theorem State.afterNow_tPass : (s.afterNow).tPass = s.tPass := rfl
@[simp] theorem State.afterNow_clearFrameMux : (s.afterNow).clearFrameMux = s.clearFrameMux := rfl
@[simp] theorem State.afterNow_clearFrameStatic : (s.afterNow).clearFrameStatic = s.clearFrameStatic := rfl
@[simp] theorem State.afterNow_cell (a : Nat) : (s.afterNow).cell a = s.cell a := rfl
@[simp] theorem State.afterNow_staticFrame : (s.afterNow).staticFrame = s.staticFrame := rfl

/-! ### enterReset -/

@[simp] theorem State.enterReset_cfg : (s.enterReset).cfg = s.cfg := rfl
@[simp] theorem State.enterReset_glyph : (s.enterReset).glyph = s.glyph := rfl
@[simp] theorem State.enterReset_cells : (s.enterReset).cells = s.cells := rfl
@[simp] theorem State.enterReset_cp : (s.enterReset).cp = .ready := rfl
@[simp] theorem State.enterReset_drv : (s.enterReset).drv = .idle := rfl
@[simp] theorem State.enterReset_scanT0 : (s.enterReset).scanT0 = s.scanT0 := rfl
@[simp] theorem State.enterReset_scanDur : (s.enterReset).scanDur = s.scanDur := rfl
@[simp] theorem State.enterReset_scanI : (s.enterReset).scanI = s.scanI := rfl
@[simp] theorem State.enterReset_port : (s.enterReset).port = s.port := rfl
@[simp] theorem State.enterReset_resetIn : (s.enterReset).resetIn = s.resetIn := rfl
@[simp] theorem State.enterReset_inReset : (s.enterReset).inReset = true := rfl
@[simp] theorem State.enterReset_cfgIn : (s.enterReset).cfgIn = s.cfgIn := rfl
@[simp] theorem State.enterReset_timeIn : (s.enterReset).timeIn = s.timeIn := rfl
@[simp] theorem State.enterReset_clock : (s.enterReset).clock = s.clock := rfl
@[simp] theorem State.enterReset_draws : (s.enterReset).draws = s.draws := rfl
@[simp] theorem State.enterReset_trace : (s.enterReset).trace = s.trace ++ [Event.reset] := rfl
@[simp] theorem State.enterReset_blank : (s.enterReset).blank = s.blank := rfl
@[simp] theorem State.enterReset_tPass : (s.enterReset).tPass = s.tPass := rfl
@[simp] theorem State.enterReset_clearFrameMux : (s.enterReset).clearFrameMux = s.clearFrameMux := rfl
@[simp] theorem State.enterReset_clearFrameStatic : (s.enterReset).clearFrameStatic = s.clearFrameStatic := rfl
@[simp] theorem State.enterReset_cell (a : Nat) : (s.enterReset).cell a = s.cell a := rfl
@[simp] theorem State.enterReset_staticFrame : (s.enterReset).staticFrame = s.staticFrame := rfl

/-! ### boot -/

@[simp] theorem State.boot_cfg : (s.boot).cfg = loadRegisters s.cfgIn := rfl
@[simp] theorem State.boot_glyph : (s.boot).glyph = s.glyph := rfl
@[simp] theorem State.boot_cells : (s.boot).cells = [] := rfl
@[simp] theorem State.boot_cp : (s.boot).cp = .ready := rfl
@[simp] theorem State.boot_drv : (s.boot).drv = .idle := rfl
@[simp] theorem State.boot_scanT0 : (s.boot).scanT0 = 0 := rfl
@[simp] theorem State.boot_scanDur : (s.boot).scanDur = 0 := rfl
@[simp] theorem State.boot_scanI : (s.boot).scanI = 0 := rfl
@[simp] theorem State.boot_port : (s.boot).port = s.port := rfl
@[simp] theorem State.boot_resetIn : (s.boot).resetIn = s.resetIn := rfl
@[simp] theorem State.boot_inReset : (s.boot).inReset = false := rfl
@[simp] theorem State.boot_cfgIn : (s.boot).cfgIn = s.cfgIn := rfl
@[simp] theorem State.boot_timeIn : (s.boot).timeIn = s.timeIn := rfl
@[simp] theorem State.boot_clock : (s.boot).clock = s.clock := rfl
@[simp] theorem State.boot_draws : (s.boot).draws = s.draws := rfl
@[simp] theorem State.boot_trace : (s.boot).trace = s.trace := rfl

end Sys2Proof.Machine
end

