-- ==== Sys2Proof/Laws/Device.lean ====
section
/-! SUPPORT. What the external chain makes of events that send nothing: a read of Now() and a reset leave its outputs and its shift stages
as they are (10_state R33). -/

namespace Sys2Proof.Machine

-- One lemma at a time: elaborated side by side they take a thread each, and the threads' stacks count against the memory limit.
set_option Elab.async false

variable (s : State)

theorem chainView_append (tr es : List Event) : chainView (tr ++ es) = es.foldl chainEvent (chainView tr) := List.foldl_append

theorem outputs_append (tr es : List Event) : outputs (tr ++ es) = outputs tr ++ outputs es := List.filter_append ..

/-- A read of Now() is nothing to the chain. -/
theorem chainView_now (tr : List Event) (t : Word32) : chainView (tr ++ [.now t]) = chainView tr := by
  simp [chainView_append, chainEvent]

/-- A reset gives up the bytes of a frame it cuts, which leaves a mix. -/
theorem chainView_reset (tr : List Event) : chainView (tr ++ [.reset]) =
    { chainView tr with pending := [], mixed := (chainView tr).mixed || !(chainView tr).pending.isEmpty } := by
  simp [chainView_append, chainEvent]

@[simp] theorem displayed_afterNow : s.afterNow.displayed = s.displayed := by
  simp [State.displayed, framesOf, State.afterNow, chainView_now]

@[simp] theorem shiftStages_afterNow : s.afterNow.shiftStages = s.shiftStages := by
  have o : outputs s.afterNow.trace = outputs s.trace := by simp [State.afterNow, outputs]
  have v : chainView s.afterNow.trace = chainView s.trace := by simp [State.afterNow, chainView_now]
  simp only [State.shiftStages, o, v, displayed_afterNow]

@[simp] theorem displayed_enterReset : s.enterReset.displayed = s.displayed := by
  simp [State.displayed, framesOf, State.enterReset, chainView_reset]

@[simp] theorem shiftStages_enterReset : s.enterReset.shiftStages = s.shiftStages := by
  have o : outputs s.enterReset.trace = outputs s.trace := by simp [State.enterReset, outputs]
  have v : chainView s.enterReset.trace =
      { chainView s.trace with pending := [], mixed := (chainView s.trace).mixed || !(chainView s.trace).pending.isEmpty } := by
    simp [State.enterReset, chainView_reset]
  simp only [State.shiftStages, o, v, displayed_enterReset, List.isEmpty_nil, Bool.not_true, Bool.or_false]

end Sys2Proof.Machine
end

