-- ==== Sys2Proof/Laws/Memory.lean ====
section
/-! SUPPORT. The laws of the cell list: a read after a write, a write leaves the other cells alone, and every write keeps the
canonical form. -/

namespace Sys2Proof.Machine

-- One lemma at a time: elaborated side by side they take a thread each, and the threads' stacks count against the memory limit.
set_option Elab.async false

theorem Memory.wfFrom_mono {blank : Byte} {len lo lo' : Nat} {m : Memory} (h : Memory.wfFrom blank len lo m = true) (hl : lo' ≤ lo) :
    Memory.wfFrom blank len lo' m = true := by
  cases m with
  | nil => rfl
  | cons e m =>
    obtain ⟨k, b⟩ := e
    simp only [Memory.wfFrom, Bool.and_eq_true, decide_eq_true_eq] at h ⊢
    exact ⟨⟨⟨by omega, h.1.1.2⟩, h.1.2⟩, h.2⟩

/-- Below the first index that a canonical list may hold, every cell reads as the blank. -/
theorem Memory.read_below {blank : Byte} {len : Nat} {m : Memory} :
    ∀ {lo : Nat}, Memory.wfFrom blank len lo m = true → ∀ a, a < lo → Memory.read blank m a = blank := by
  induction m with
  | nil => intros; rfl
  | cons e m ih =>
    obtain ⟨k, b⟩ := e
    intro lo h a ha
    simp only [Memory.wfFrom, Bool.and_eq_true, decide_eq_true_eq] at h
    have hk : ¬ k = a := by omega
    simp only [Memory.read, hk, if_false]
    exact ih h.2 a (by omega)

/-- A write leaves every other cell alone, whatever the form of the list. -/
theorem Memory.read_write_other (blank : Byte) (m : Memory) (a b : Nat) (v : Byte) (h : a ≠ b) :
    Memory.read blank (Memory.write blank m a v) b = Memory.read blank m b := by
  induction m with
  | nil =>
    simp only [Memory.write]
    split <;> simp [Memory.read, h]
  | cons e m ih =>
    obtain ⟨k, x⟩ := e
    simp only [Memory.write]
    split
    · split <;> simp [Memory.read, h]
    · split
      · next _ hk =>
        subst hk
        split <;> simp [Memory.read, h]
      · simp only [Memory.read]
        split
        · rfl
        · exact ih

/-- A read after a write to the same cell of a canonical list gives the value written. -/
theorem Memory.read_write_same {blank : Byte} {len : Nat} {m : Memory} (a : Nat) (v : Byte) :
    ∀ {lo : Nat}, Memory.wfFrom blank len lo m = true → Memory.read blank (Memory.write blank m a v) a = v := by
  induction m with
  | nil =>
    intro lo _
    simp only [Memory.write]
    split
    · next h => simp [Memory.read, h]
    · simp [Memory.read]
  | cons e m ih =>
    obtain ⟨k, x⟩ := e
    intro lo h
    have h' := h
    simp only [Memory.wfFrom, Bool.and_eq_true, decide_eq_true_eq] at h'
    simp only [Memory.write]
    split
    · next hk =>
      split
      · next hv =>
        have hka : ¬ k = a := by omega
        simp only [Memory.read, hka, if_false]
        rw [hv]
        exact Memory.read_below h'.2 a (by omega)
      · simp [Memory.read]
    · split
      · next _ hk =>
        subst hk
        split
        · next hv =>
          rw [hv]
          exact Memory.read_below h'.2 a (by omega)
        · simp [Memory.read]
      · next _ hk =>
        simp only [Memory.read]
        rw [if_neg (fun h => hk h.symm)]
        exact ih h'.2

theorem Memory.write_wfFrom {blank : Byte} {len : Nat} {m : Memory} (a : Nat) (v : Byte) (ha : a < len) :
    ∀ {lo : Nat}, Memory.wfFrom blank len lo m = true → lo ≤ a → Memory.wfFrom blank len lo (Memory.write blank m a v) = true := by
  induction m with
  | nil =>
    intro lo _ hlo
    simp only [Memory.write]
    split
    · rfl
    · next h => simp [Memory.wfFrom, hlo, ha, h]
  | cons e m ih =>
    obtain ⟨k, x⟩ := e
    intro lo h hlo
    have h' := h
    simp only [Memory.wfFrom, Bool.and_eq_true, decide_eq_true_eq] at h'
    simp only [Memory.write]
    split
    · next hk =>
      split
      · exact h
      · next hv =>
        simp only [Memory.wfFrom, Bool.and_eq_true, decide_eq_true_eq]
        refine ⟨⟨⟨hlo, ha⟩, by simpa using hv⟩, ⟨⟨by omega, h'.1.1.2⟩, h'.1.2⟩, h'.2⟩
    · split
      · next _ hk =>
        subst hk
        split
        · exact Memory.wfFrom_mono h'.2 (by omega)
        · next hv =>
          simp only [Memory.wfFrom, Bool.and_eq_true, decide_eq_true_eq]
          exact ⟨⟨⟨hlo, ha⟩, by simpa using hv⟩, h'.2⟩
      · next hlt hne =>
        simp only [Memory.wfFrom, Bool.and_eq_true, decide_eq_true_eq]
        exact ⟨⟨⟨h'.1.1.1, h'.1.1.2⟩, h'.1.2⟩, ih h'.2 (by omega)⟩

/-- A write to a cell that exists keeps the canonical form. -/
theorem Memory.write_wf {blank : Byte} {len : Nat} {m : Memory} (a : Nat) (v : Byte) (ha : a < len)
    (h : Memory.wf blank len m = true) : Memory.wf blank len (Memory.write blank m a v) = true :=
  Memory.write_wfFrom a v ha h (Nat.zero_le a)

/-- A read after a write to the same cell. -/
theorem Memory.wf_read_write_same {blank : Byte} {len : Nat} {m : Memory} (a : Nat) (v : Byte) (h : Memory.wf blank len m = true) :
    Memory.read blank (Memory.write blank m a v) a = v := Memory.read_write_same a v h

/-- Consecutive writes keep the canonical form. -/
theorem Memory.writeAll_wf {blank : Byte} {len : Nat} (vs : List Byte) :
    ∀ {m : Memory} {a : Nat}, a + vs.length ≤ len → Memory.wf blank len m = true →
      Memory.wf blank len (Memory.writeAll blank m a vs) = true := by
  induction vs with
  | nil => intro m a _ h; exact h
  | cons v vs ih =>
    intro m a ha h
    simp only [List.length_cons] at ha
    exact ih (by omega) (Memory.write_wf a v (by omega) h)

/-- Consecutive writes leave every cell outside their range alone. -/
theorem Memory.read_writeAll_outside (blank : Byte) (vs : List Byte) :
    ∀ (m : Memory) (a b : Nat), (b < a ∨ a + vs.length ≤ b) →
      Memory.read blank (Memory.writeAll blank m a vs) b = Memory.read blank m b := by
  induction vs with
  | nil => intros; rfl
  | cons v vs ih =>
    intro m a b h
    simp only [List.length_cons] at h
    rw [Memory.writeAll, ih _ _ _ (by omega), Memory.read_write_other _ _ _ _ _ (by omega)]

/-- After consecutive writes each cell of their range holds its byte. -/
theorem Memory.read_writeAll_inside {blank : Byte} {len : Nat} (vs : List Byte) :
    ∀ {m : Memory} {a : Nat} (j : Nat) (hj : j < vs.length), a + vs.length ≤ len → Memory.wf blank len m = true →
      Memory.read blank (Memory.writeAll blank m a vs) (a + j) = vs[j] := by
  induction vs with
  | nil => intro m a j hj; exact absurd hj (Nat.not_lt_zero j)
  | cons v vs ih =>
    intro m a j hj ha h
    simp only [List.length_cons] at ha hj
    cases j with
    | zero =>
      rw [Memory.writeAll, Memory.read_writeAll_outside _ _ _ _ _ (by omega)]
      exact Memory.wf_read_write_same a v h
    | succ j =>
      have hw := Memory.write_wf (blank := blank) a v (by omega : a < len) h
      have := ih (m := Memory.write blank m a v) (a := a + 1) j (by omega) (by omega) hw
      rw [Memory.writeAll, show a + (j + 1) = a + 1 + j by omega, this]
      rfl

/-- The empty buffer of reset is canonical. -/
theorem Memory.wf_nil (blank : Byte) (len : Nat) : Memory.wf blank len [] = true := rfl

end Sys2Proof.Machine
end

