-- ==== Sys2Proof/Laws/Ops.lean ====
section
/-! SUPPORT. What each shared operation can do, said once: the provers cite these instead of unfolding it. -/

namespace Sys2Proof.Machine

-- One lemma at a time: elaborated side by side they take a thread each, and the threads' stacks count against the memory limit.
set_option Elab.async false

/-! ### The command port -/

/-- When CMD_READY is high. -/
theorem cmdReady_iff (s : State) : s.cmdReady = true ↔
    s.inReset = false ∧ s.resetIn ≠ .asserted 0 ∧ (s.cp = .ready ∨ ∃ got, s.cp = .busy (.payload got)) := by
  rcases h : s.cp with _ | _ | _ | _ | _ | _ <;> simp [State.cmdReady, h]

/-! ### The cell buffer -/

/-- A write to a cell that exists completes. -/
theorem writeCell_next {a : Nat} {v : Byte} {s : State} (h : a < s.cfg.dispLen) :
    writeCell a v s = .next (s.setCells (Memory.write s.blank s.cells a v)) := by simp [writeCell, h]

/-- If a write completes, its cell exists and only the buffer has changed. -/
theorem writeCell_inv {a : Nat} {v : Byte} {s t : State} (h : writeCell a v s = .next t) :
    a < s.cfg.dispLen ∧ t = s.setCells (Memory.write s.blank s.cells a v) := by
  simp only [writeCell] at h
  split at h
  · next ha => exact ⟨ha, by cases h; rfl⟩
  · cases h

/-- Writes to consecutive cells that exist complete. -/
theorem writeRun_next : ∀ (vs : List Byte) (a : Nat) (s : State), a + vs.length ≤ s.cfg.dispLen →
    writeRun a vs s = .next (s.setCells (Memory.writeAll s.blank s.cells a vs)) := by
  intro vs
  induction vs with
  | nil => intros; rfl
  | cons v vs ih =>
    intro a s h
    simp only [List.length_cons] at h
    simp only [writeRun, writeCell_next (show a < s.cfg.dispLen by omega)]
    rw [ih (a + 1) _ (by simp; omega)]
    rfl

/-- If consecutive writes complete, their cells exist and only the buffer has changed. -/
theorem writeRun_inv : ∀ (vs : List Byte) (a : Nat) (s t : State), writeRun a vs s = .next t →
    (vs = [] ∨ a + vs.length ≤ s.cfg.dispLen) ∧ t = s.setCells (Memory.writeAll s.blank s.cells a vs) := by
  intro vs
  induction vs with
  | nil => intro a s t h; cases h; exact ⟨.inl rfl, rfl⟩
  | cons v vs ih =>
    intro a s t h
    simp only [writeRun] at h
    split at h
    · next u hu =>
      obtain ⟨ha, rfl⟩ := writeCell_inv hu
      obtain ⟨hr, rfl⟩ := ih _ _ _ h
      refine ⟨.inr ?_, rfl⟩
      simp only [State.setCells_cfg] at hr
      rcases hr with rfl | hr
      · simpa using ha
      · simp only [List.length_cons]; omega
    · cases h
    · cases h

/-- Consecutive writes never refuse. -/
theorem writeRun_not_refused : ∀ (vs : List Byte) (a : Nat) (s : State) (r : Refusal), writeRun a vs s ≠ .refused r := by
  intro vs
  induction vs with
  | nil => intro a s r h; cases h
  | cons v vs ih =>
    intro a s r h
    simp only [writeRun] at h
    split at h
    · exact ih _ _ _ h
    · cases h
    · next hu => simp only [writeCell] at hu; split at hu <;> cases hu

/-! ### Operands -/

theorem secOk_iff {s : State} {sec : BitVec 4} {n : Nat} :
    s.secOk sec n = true ↔ ∃ r, s.cfg.sections[sec.toNat]? = some r ∧ n = r.len := by
  simp only [State.secOk, State.sectionAt]
  cases s.cfg.sections[sec.toNat]? <;> simp

theorem addrOk_iff {s : State} {sec : BitVec 4} {idx : Byte} :
    s.addrOk sec idx = true ↔ ∃ r, s.cfg.sections[sec.toNat]? = some r ∧ idx.toNat < r.len := by
  simp only [State.addrOk, State.sectionAt]
  cases s.cfg.sections[sec.toNat]? <;> simp

theorem secBegin_of {s : State} {sec : BitVec 4} {r : Section} (h : s.cfg.sections[sec.toNat]? = some r) :
    s.secBegin sec = r.start := by simp [State.secBegin, State.sectionAt, h]

/-- A section of a table that follows on from `start` lies inside the table's cells (10_state R20). -/
theorem sectionsFrom_bounds : ∀ (secs : List Section) (start k : Nat) (r : Section), sectionsFrom start secs = true →
    secs[k]? = some r → start ≤ r.start ∧ 1 ≤ r.len ∧ r.start + r.len ≤ start + sectionsLength secs := by
  intro secs
  induction secs with
  | nil => intro start k r _ h; simp at h
  | cons x xs ih =>
    intro start k r hs h
    simp only [sectionsFrom, Bool.and_eq_true, beq_iff_eq, decide_eq_true_eq] at hs
    have hl : sectionsLength (x :: xs) = x.len + sectionsLength xs := by simp [sectionsLength]
    cases k with
    | zero => simp at h; subst h; omega
    | succ k =>
      simp at h
      have := ih _ _ _ hs.2 h
      omega

/-- The registers' invariant, taken apart. -/
theorem registersOk_iff {r : Registers} : registersOk r = true ↔
    1 ≤ r.sections.length ∧ sectionsFrom 0 r.sections = true ∧ sectionsLength r.sections = r.dispLen ∧
    (r.dispLen ≤ r.maxCells ∧ r.maxCells ≤ 8) ∧ (r.driveMode = .mux → r.sel.length = r.maxCells) ∧ 1 ≤ r.tCellMs.toNat := by
  simp only [registersOk, Bool.and_eq_true, decide_eq_true_eq, beq_iff_eq]
  cases r.driveMode <;> simp <;> tauto

/-- A valid section lies inside the buffer (20_memory R38). -/
theorem section_inside {s : State} (h : registersOk s.cfg = true) {k : Nat} {r : Section} (hr : s.cfg.sections[k]? = some r) :
    1 ≤ r.len ∧ r.start + r.len ≤ s.cfg.dispLen := by
  obtain ⟨_, hs, hl, _⟩ := registersOk_iff.mp h
  have := sectionsFrom_bounds _ _ _ _ hs hr
  omega

/-- A cell frame whose cell and select code exist. -/
theorem cellFrame_ok {s : State} {i : Nat} {e : Byte} (hi : i < s.cfg.dispLen) (he : s.cfg.sel[i]? = some e) :
    s.cellFrame i = .ok (s.muxPair e (s.cell i)) := by simp [State.cellFrame, State.readCell, State.selectCode, hi, he]

/-- What a cell frame that can be built is. -/
theorem cellFrame_inv {s : State} {i : Nat} {bs : List Byte} (h : s.cellFrame i = .ok bs) :
    i < s.cfg.dispLen ∧ ∃ e, s.cfg.sel[i]? = some e ∧ bs = s.muxPair e (s.cell i) := by
  simp only [State.cellFrame, State.readCell, State.selectCode] at h
  by_cases hi : i < s.cfg.dispLen <;> cases he : s.cfg.sel[i]? <;> simp_all

/-! ### The sequencer -/

/-- A guard answers one of two states: the burst has ended, or a pass begins at cell 0. -/
theorem guardStep_cases (s : State) :
    (s.passOverruns s.now = true ∧ guardStep s = .next (endBurst s.afterNow)) ∨
    (s.passOverruns s.now = false ∧ guardStep s = .next ((s.afterNow.setScanI 0).setCp (.busy .drive))) := by
  cases h : s.passOverruns s.now <;> simp [guardStep, h]

/-- If a drive step completes, it has sent the frame of cell SCAN_I and begun its slice. -/
theorem driveStep_inv {s t : State} (h : driveStep s = .next t) :
    ∃ bs, s.cellFrame s.scanI = .ok bs ∧ t = (s.sendFrame bs).afterNow.setCp (.busy (.slice (s.sendFrame bs).now)) := by
  simp only [driveStep] at h
  split at h
  · next bs hb => exact ⟨bs, hb, by cases h; rfl⟩
  · cases h

/-- A poll of a slice answers one of three states. -/
theorem sliceStep_cases (t0 : Word32) (s : State) :
    (elapsed t0 s.now < s.cfg.tCellMs.toNat ∧ sliceStep t0 s = .next s.afterNow) ∨
    (s.cfg.tCellMs.toNat ≤ elapsed t0 s.now ∧ s.scanI + 1 < s.cfg.dispLen ∧
      sliceStep t0 s = .next ((s.afterNow.setScanI (s.scanI + 1)).setCp (.busy .drive))) ∨
    (s.cfg.tCellMs.toNat ≤ elapsed t0 s.now ∧ s.cfg.dispLen ≤ s.scanI + 1 ∧
      sliceStep t0 s = .next (s.afterNow.setCp (.busy .guard))) := by
  by_cases h : s.cfg.tCellMs.toNat ≤ elapsed t0 s.now
  · by_cases h2 : s.scanI + 1 < s.cfg.dispLen
    · exact .inr (.inl ⟨h, h2, by simp [sliceStep, h, h2]⟩)
    · exact .inr (.inr ⟨h, by omega, by simp [sliceStep, h, h2]⟩)
  · exact .inl ⟨by omega, by simp [sliceStep, h]⟩

/-- A poll of a hold answers one of two states. -/
theorem holdStep_cases (t0 dur : Word32) (s : State) :
    (elapsed t0 s.now < dur.toNat ∧ holdStep t0 dur s = .next s.afterNow) ∨
    (dur.toNat ≤ elapsed t0 s.now ∧ holdStep t0 dur s = .next ((s.afterNow.sendFrame s.clearFrameStatic).setCp .ready)) := by
  by_cases h : dur.toNat ≤ elapsed t0 s.now
  · exact .inr ⟨h, by simp [holdStep, h]⟩
  · exact .inl ⟨by omega, by simp [holdStep, h]⟩

/-! ### Port and reset -/

/-- If accepting completes, a command was executed or an incomplete one is held. -/
theorem accept_inv {got : List Byte} {s t : State} (h : accept got s = .next t) :
    (∃ i rest, decode (got ++ s.port) = .cmd i rest ∧ exec i ((s.setPort rest).setCp .ready) = .next t) ∨
    (decode (got ++ s.port) = .more ∧ t = (s.setPort []).setCp (waitingCp (got ++ s.port))) := by
  simp only [accept] at h
  split at h
  · next i rest hd => exact .inl ⟨i, rest, hd, h⟩
  · next hd => exact .inr ⟨hd, by cases h; rfl⟩
  · cases h
  · cases h

/-- If a release completes, the configuration is valid and the state is booted. -/
theorem releaseReset_inv {s t : State} (h : releaseReset s = .next t) : configValid s.cfgIn s.glyph = true ∧ t = s.boot := by
  simp only [releaseReset] at h
  split at h
  · next hv => exact ⟨hv, by cases h; rfl⟩
  · cases h

/-- A cut step is the step but for its trace and, where its read is cut off, its time input. -/
theorem cutStep_cases (n : Nat) (s t : State) :
    ((newEvents s t).take n).any isRead = true ∧ cutStep n s t = { t with trace := s.trace ++ (newEvents s t).take n } ∨
    ((newEvents s t).take n).any isRead = false ∧
      cutStep n s t = { t.setTime s.timeIn s.clock s.draws with trace := s.trace ++ (newEvents s t).take n } := by
  cases h : ((newEvents s t).take n).any isRead <;> simp [cutStep, h]

@[simp] theorem cutStep_trace (n : Nat) (s t : State) : (cutStep n s t).trace = s.trace ++ (newEvents s t).take n := rfl

/-- If an assertion of reset completes, the state is in reset, with part of a step's events on the trace. -/
theorem assertReset_inv {after : Nat} {s t : State} (h : assertReset after s = .next t) :
    (after = 0 ∧ t = s.enterReset) ∨
    (∃ k u, after = k + 1 ∧ run s = .next u ∧ t = (cutStep (k + 1) s u).enterReset) := by
  cases after with
  | zero => exact .inl ⟨rfl, by cases h; rfl⟩
  | succ k =>
    simp only [assertReset] at h
    split at h
    · next u hu => exact .inr ⟨k, u, rfl, hu, by cases h; rfl⟩
    · cases h
    · cases h

/-- A step is one of four things, by the reset input and whether the block is in reset. -/
theorem step_cases (s : State) :
    ((∃ k, s.resetIn = .asserted k) ∧ s.inReset = true ∧ step s = .next s) ∨
    (∃ k, s.resetIn = .asserted k ∧ s.inReset = false ∧ step s = assertReset k s) ∨
    (s.resetIn = .released ∧ s.inReset = true ∧ step s = releaseReset s) ∨
    (s.resetIn = .released ∧ s.inReset = false ∧ step s = run s) := by
  cases hr : s.resetIn <;> cases hi : s.inReset <;> simp [step, stepWithReset, hr, hi]

end Sys2Proof.Machine
end

