-- ==== Sys2Proof/Laws/Output.lean ====
section
/-! SUPPORT. One lemma for each field of State after each operation of the output drivers. -/

namespace Sys2Proof.Machine

-- One lemma at a time: elaborated side by side they take a thread each, and the threads' stacks count against the memory limit.
set_option Elab.async false

variable (s : State)

/-! ### startBurst -/

@[simp] theorem startBurst_cfg (dur : Word32) : (startBurst dur s).cfg = s.cfg := by
  simp only [startBurst]; split <;> rfl
@[simp] theorem startBurst_glyph (dur : Word32) : (startBurst dur s).glyph = s.glyph := by
  simp only [startBurst]; split <;> rfl
@[simp] theorem startBurst_cells (dur : Word32) : (startBurst dur s).cells = s.cells := by
  simp only [startBurst]; split <;> rfl
@[simp] theorem startBurst_cp (dur : Word32) : (startBurst dur s).cp = .busy .guard := by
  simp only [startBurst]; split <;> rfl
@[simp] theorem startBurst_drv (dur : Word32) : (startBurst dur s).drv = .scanning := by
  simp only [startBurst]; split <;> rfl
@[simp] theorem startBurst_scanT0 (dur : Word32) : (startBurst dur s).scanT0 = s.now := by
  simp only [startBurst]; split <;> rfl
@[simp] theorem startBurst_scanDur (dur : Word32) : (startBurst dur s).scanDur = dur := by
  simp only [startBurst]; split <;> rfl
@[simp] theorem startBurst_scanI (dur : Word32) : (startBurst dur s).scanI = s.scanI := by
  simp only [startBurst]; split <;> rfl
@[simp] theorem startBurst_port (dur : Word32) : (startBurst dur s).port = s.port := by
  simp only [startBurst]; split <;> rfl
@[simp] theorem startBurst_resetIn (dur : Word32) : (startBurst dur s).resetIn = s.resetIn := by
  simp only [startBurst]; split <;> rfl
@[simp] theorem startBurst_inReset (dur : Word32) : (startBurst dur s).inReset = s.inReset := by
  simp only [startBurst]; split <;> rfl
@[simp] theorem startBurst_cfgIn (dur : Word32) : (startBurst dur s).cfgIn = s.cfgIn := by
  simp only [startBurst]; split <;> rfl
@[simp] theorem startBurst_timeIn (dur : Word32) : (startBurst dur s).timeIn = s.timeIn.tail := by
  simp only [startBurst]; split <;> rfl
@[simp] theorem startBurst_clock (dur : Word32) : (startBurst dur s).clock = s.nextClock := by
  simp only [startBurst]; split <;> rfl
@[simp] theorem startBurst_draws (dur : Word32) : (startBurst dur s).draws = if s.timeIn.isEmpty then s.draws + 1 else s.draws := by
  simp only [startBurst]; split <;> rfl
@[simp] theorem startBurst_trace (dur : Word32) : (startBurst dur s).trace = s.trace ++ [Event.now s.now] ++ (if s.cfg.clearBefore then frameEvents s.cfg.bitOrder s.clearFrameMux else []) := by
  simp only [startBurst]; split <;> simp [State.sendFrame, *]

/-! ### endBurst -/

@[simp] theorem endBurst_cfg : (endBurst s).cfg = s.cfg := rfl
@[simp] theorem endBurst_glyph : (endBurst s).glyph = s.glyph := rfl
@[simp] theorem endBurst_cells : (endBurst s).cells = s.cells := rfl
@[simp] theorem endBurst_cp : (endBurst s).cp = .ready := rfl
@[simp] theorem endBurst_drv : (endBurst s).drv = .idle := rfl
@[simp] theorem endBurst_scanT0 : (endBurst s).scanT0 = s.scanT0 := rfl
@[simp] theorem endBurst_scanDur : (endBurst s).scanDur = s.scanDur := rfl
@[simp] theorem endBurst_scanI : (endBurst s).scanI = s.scanI := rfl
@[simp] theorem endBurst_port : (endBurst s).port = s.port := rfl
@[simp] theorem endBurst_resetIn : (endBurst s).resetIn = s.resetIn := rfl
@[simp] theorem endBurst_inReset : (endBurst s).inReset = s.inReset := rfl
@[simp] theorem endBurst_cfgIn : (endBurst s).cfgIn = s.cfgIn := rfl
@[simp] theorem endBurst_timeIn : (endBurst s).timeIn = s.timeIn := rfl
@[simp] theorem endBurst_clock : (endBurst s).clock = s.clock := rfl
@[simp] theorem endBurst_draws : (endBurst s).draws = s.draws := rfl
@[simp] theorem endBurst_trace : (endBurst s).trace = s.trace ++ frameEvents s.cfg.bitOrder s.clearFrameMux := rfl

/-! ### startHold -/

@[simp] theorem startHold_cfg (dur : Word32) : (startHold dur s).cfg = s.cfg := rfl
@[simp] theorem startHold_glyph (dur : Word32) : (startHold dur s).glyph = s.glyph := rfl
@[simp] theorem startHold_cells (dur : Word32) : (startHold dur s).cells = s.cells := rfl
@[simp] theorem startHold_cp (dur : Word32) : (startHold dur s).cp = .busy (.hold s.now dur) := rfl
@[simp] theorem startHold_drv (dur : Word32) : (startHold dur s).drv = s.drv := rfl
@[simp] theorem startHold_scanT0 (dur : Word32) : (startHold dur s).scanT0 = s.scanT0 := rfl
@[simp] theorem startHold_scanDur (dur : Word32) : (startHold dur s).scanDur = s.scanDur := rfl
@[simp] theorem startHold_scanI (dur : Word32) : (startHold dur s).scanI = s.scanI := rfl
@[simp] theorem startHold_port (dur : Word32) : (startHold dur s).port = s.port := rfl
@[simp] theorem startHold_resetIn (dur : Word32) : (startHold dur s).resetIn = s.resetIn := rfl
@[simp] theorem startHold_inReset (dur : Word32) : (startHold dur s).inReset = s.inReset := rfl
@[simp] theorem startHold_cfgIn (dur : Word32) : (startHold dur s).cfgIn = s.cfgIn := rfl
@[simp] theorem startHold_timeIn (dur : Word32) : (startHold dur s).timeIn = s.timeIn.tail := rfl
@[simp] theorem startHold_clock (dur : Word32) : (startHold dur s).clock = s.nextClock := rfl
@[simp] theorem startHold_draws (dur : Word32) : (startHold dur s).draws = if s.timeIn.isEmpty then s.draws + 1 else s.draws := rfl
@[simp] theorem startHold_trace (dur : Word32) : (startHold dur s).trace = s.trace ++ frameEvents s.cfg.bitOrder s.staticFrame ++ [Event.now s.now] := rfl

/-! ### clearMux -/

@[simp] theorem clearMux_cfg : (clearMux s).cfg = s.cfg := rfl
@[simp] theorem clearMux_glyph : (clearMux s).glyph = s.glyph := rfl
@[simp] theorem clearMux_cells : (clearMux s).cells = s.cells := rfl
@[simp] theorem clearMux_cp : (clearMux s).cp = s.cp := rfl
@[simp] theorem clearMux_drv : (clearMux s).drv = s.drv := rfl
@[simp] theorem clearMux_scanT0 : (clearMux s).scanT0 = s.scanT0 := rfl
@[simp] theorem clearMux_scanDur : (clearMux s).scanDur = s.scanDur := rfl
@[simp] theorem clearMux_scanI : (clearMux s).scanI = s.scanI := rfl
@[simp] theorem clearMux_port : (clearMux s).port = s.port := rfl
@[simp] theorem clearMux_resetIn : (clearMux s).resetIn = s.resetIn := rfl
@[simp] theorem clearMux_inReset : (clearMux s).inReset = s.inReset := rfl
@[simp] theorem clearMux_cfgIn : (clearMux s).cfgIn = s.cfgIn := rfl
@[simp] theorem clearMux_timeIn : (clearMux s).timeIn = s.timeIn := rfl
@[simp] theorem clearMux_clock : (clearMux s).clock = s.clock := rfl
@[simp] theorem clearMux_draws : (clearMux s).draws = s.draws := rfl
@[simp] theorem clearMux_trace : (clearMux s).trace = s.trace ++ frameEvents s.cfg.bitOrder s.clearFrameMux := rfl

/-! ### updateStatic -/

@[simp] theorem updateStatic_cfg : (updateStatic s).cfg = s.cfg := rfl
@[simp] theorem updateStatic_glyph : (updateStatic s).glyph = s.glyph := rfl
@[simp] theorem updateStatic_cells : (updateStatic s).cells = s.cells := rfl
@[simp] theorem updateStatic_cp : (updateStatic s).cp = s.cp := rfl
@[simp] theorem updateStatic_drv : (updateStatic s).drv = s.drv := rfl
@[simp] theorem updateStatic_scanT0 : (updateStatic s).scanT0 = s.scanT0 := rfl
@[simp] theorem updateStatic_scanDur : (updateStatic s).scanDur = s.scanDur := rfl
@[simp] theorem updateStatic_scanI : (updateStatic s).scanI = s.scanI := rfl
@[simp] theorem updateStatic_port : (updateStatic s).port = s.port := rfl
@[simp] theorem updateStatic_resetIn : (updateStatic s).resetIn = s.resetIn := rfl
@[simp] theorem updateStatic_inReset : (updateStatic s).inReset = s.inReset := rfl
@[simp] theorem updateStatic_cfgIn : (updateStatic s).cfgIn = s.cfgIn := rfl
@[simp] theorem updateStatic_timeIn : (updateStatic s).timeIn = s.timeIn := rfl
@[simp] theorem updateStatic_clock : (updateStatic s).clock = s.clock := rfl
@[simp] theorem updateStatic_draws : (updateStatic s).draws = s.draws := rfl
@[simp] theorem updateStatic_trace : (updateStatic s).trace = s.trace ++ frameEvents s.cfg.bitOrder s.staticFrame := rfl

/-! ### clearStatic -/

@[simp] theorem clearStatic_cfg : (clearStatic s).cfg = s.cfg := rfl
@[simp] theorem clearStatic_glyph : (clearStatic s).glyph = s.glyph := rfl
@[simp] theorem clearStatic_cells : (clearStatic s).cells = s.cells := rfl
@[simp] theorem clearStatic_cp : (clearStatic s).cp = s.cp := rfl
@[simp] theorem clearStatic_drv : (clearStatic s).drv = s.drv := rfl
@[simp] theorem clearStatic_scanT0 : (clearStatic s).scanT0 = s.scanT0 := rfl
@[simp] theorem clearStatic_scanDur : (clearStatic s).scanDur = s.scanDur := rfl
@[simp] theorem clearStatic_scanI : (clearStatic s).scanI = s.scanI := rfl
@[simp] theorem clearStatic_port : (clearStatic s).port = s.port := rfl
@[simp] theorem clearStatic_resetIn : (clearStatic s).resetIn = s.resetIn := rfl
@[simp] theorem clearStatic_inReset : (clearStatic s).inReset = s.inReset := rfl
@[simp] theorem clearStatic_cfgIn : (clearStatic s).cfgIn = s.cfgIn := rfl
@[simp] theorem clearStatic_timeIn : (clearStatic s).timeIn = s.timeIn := rfl
@[simp] theorem clearStatic_clock : (clearStatic s).clock = s.clock := rfl
@[simp] theorem clearStatic_draws : (clearStatic s).draws = s.draws := rfl
@[simp] theorem clearStatic_trace : (clearStatic s).trace = s.trace ++ frameEvents s.cfg.bitOrder s.clearFrameStatic := rfl

end Sys2Proof.Machine
end

