-- ==== Sys2Proof/Laws/PerInstr.lean ====
section
/-! SUPPORT. Statements about every instruction as syntax, one lemma per constructor: the packet of a well-formed command is as long as
its header says, and no longer than the longest command (30_encoding R78). -/

namespace Sys2Proof.Laws.PacketLength

-- One lemma at a time: elaborated side by side they take a thread each, and the threads' stacks count against the memory limit.
set_option Elab.async false

/-- The framing of the packet's own bytes gives the packet's length. -/
def Statement (i : Instr) : Prop :=
  i.wellFormed = true → commandLength (encode i) = some (encode i).length ∧ (encode i).length ≤ maxCommandBytes

theorem wsec (sec : BitVec 4) (codes : List Byte) : Statement (.wsec sec codes) := by
  intro h
  simp only [Instr.wellFormed, decide_eq_true_eq] at h
  have e : codes.length % 256 = codes.length := Nat.mod_eq_of_lt (by omega)
  simp [encode, commandLength, maxCommandBytes, e]
  omega

theorem wcell (sec : BitVec 4) (idx code : Byte) : Statement (.wcell sec idx code) := by
  intro _; simp [encode, commandLength, maxCommandBytes]

theorem sdot (sec : BitVec 4) (idx : Byte) (on : Bool) : Statement (.sdot sec idx on) := by
  intro _; simp [encode, commandLength, maxCommandBytes]

theorem wchr (sec : BitVec 4) (chars : List CharCell) : Statement (.wchr sec chars) := by
  intro h
  simp only [Instr.wellFormed, decide_eq_true_eq] at h
  have e : chars.length % 256 = chars.length := Nat.mod_eq_of_lt (by omega)
  have l := charBytes_length chars
  simp only [encode, commandLength, maxCommandBytes, List.length_cons, l, opField_header]
  simp [e]
  omega

theorem showFor (dur : Word32) : Statement (.showFor dur) := by
  intro _; simp [encode, commandLength, maxCommandBytes]

theorem update : Statement .update := by intro _; decide

theorem clear : Statement .clear := by intro _; decide

end Sys2Proof.Laws.PacketLength
end

