-- ==== Sys2Proof/Machine/Assembler.lean ====
section
/-! DEFINITION. The assembly syntax of command streams (30_encoding R83) and the pseudo-commands (R84), from text to packets. It is host
notation, a pure function outside the step. -/

namespace Sys2Proof.Machine

/-- A run of characters between delimiters. -/
abbrev Chars := List Char

/-- A token of a line: a word, a string in double quotes, or one of the marks of R83 (comma, brackets, braces). -/
inductive Token where
  | word (w : Chars)
  | str (t : Chars)
  | mark (c : Char)
  deriving DecidableEq, Repr

/-- Why a line does not assemble (30_encoding R83: an operand that does not fit its field is an assembly error). -/
inductive AsmError where
  /-- the line is not of a form of R83 or R84 -/
  | malformed
  /-- an operand does not fit its field -/
  | operandTooLarge
  deriving DecidableEq, Repr

/-- The braces that enclose dot indices. -/
def openBrace : Char := Char.ofNat 0x7B
def closeBrace : Char := Char.ofNat 0x7D

/-- The one-character tokens. -/
def isMark (c : Char) : Bool := c == ',' || c == '[' || c == ']' || c == openBrace || c == closeBrace

/-- White space inside a line. -/
def isBlankChar (c : Char) : Bool := c == ' ' || c == '\t' || c == '\r'

/-- A word read so far, as a token. -/
def wordToken (acc : Chars) : List Token := if acc.isEmpty then [] else [.word acc.reverse]

mutual
/-- The tokens of a line outside a string; `acc` is the word being read, last character first. A `;` starts a comment. -/
def tokensOf : Chars → Chars → Except AsmError (List Token)
  | acc, [] => .ok (wordToken acc)
  | acc, c :: cs =>
    if c == ';' then .ok (wordToken acc)
    else if c == '"' then (stringOf [] cs).map (fun ts => wordToken acc ++ ts)
    else if isMark c then (tokensOf [] cs).map (fun ts => wordToken acc ++ .mark c :: ts)
    else if isBlankChar c then (tokensOf [] cs).map (fun ts => wordToken acc ++ ts)
    else tokensOf (c :: acc) cs
/-- The tokens of a line inside a string; `acc` is the string being read, last character first. -/
def stringOf : Chars → Chars → Except AsmError (List Token)
  | _, [] => .error .malformed
  | acc, c :: cs => if c == '"' then (tokensOf [] cs).map (fun ts => .str acc.reverse :: ts) else stringOf (c :: acc) cs
end

/-- An operand of a line. -/
inductive Operand where
  | word (w : Chars)
  | str (t : Chars)
  /-- words in square brackets -/
  | codes (ws : List Chars)
  /-- words in braces -/
  | dots (ws : List Chars)
  deriving DecidableEq, Repr

/-- Where the operand parser stands: an operand or, in a group that may be empty, an item is expected, or one has just ended. -/
inductive ParsePoint where
  | operand
  | ended
  | item (close : Char) (ws : List Chars)
  | itemEnded (close : Char) (ws : List Chars)
  deriving DecidableEq, Repr

/-- The operand of a closed group. -/
def groupOperand (close : Char) (ws : List Chars) : Operand := if close == ']' then .codes ws else .dots ws

/-- The operands of a line, separated by commas. -/
def operandsOf : ParsePoint → List Token → Option (List Operand)
  | .ended, [] => some []
  | .operand, [] => none
  | .item _ _, [] => none
  | .itemEnded _ _, [] => none
  | .operand, .word w :: ts => (operandsOf .ended ts).map (.word w :: ·)
  | .operand, .str t :: ts => (operandsOf .ended ts).map (.str t :: ·)
  | .operand, .mark c :: ts =>
    if c == '[' then operandsOf (.item ']' []) ts
    else if c == openBrace then operandsOf (.item closeBrace []) ts
    else none
  | .ended, .mark c :: ts => if c == ',' then operandsOf .operand ts else none
  | .ended, _ :: _ => none
  | .item close ws, .word w :: ts => operandsOf (.itemEnded close (ws ++ [w])) ts
  | .item close ws, .mark c :: ts =>
    if c == close && ws.isEmpty then (operandsOf .ended ts).map (groupOperand close ws :: ·) else none
  | .item _ _, .str _ :: _ => none
  | .itemEnded close ws, .mark c :: ts =>
    if c == ',' then operandsOf (.item close ws) ts
    else if c == close then (operandsOf .ended ts).map (groupOperand close ws :: ·)
    else none
  | .itemEnded _ _, _ :: _ => none

/-- A digit of base 10 or 16. -/
def digitValue (base : Nat) (c : Char) : Option Nat :=
  let n := c.toNat
  let v := if 0x30 ≤ n ∧ n ≤ 0x39 then n - 0x30
    else if 0x41 ≤ n ∧ n ≤ 0x46 then n - 0x37
    else if 0x61 ≤ n ∧ n ≤ 0x66 then n - 0x57
    else 16
  if v < base then some v else none

/-- A nonempty run of digits of a base. -/
def digitsValue (base : Nat) (cs : Chars) : Option Nat :=
  if cs.isEmpty then none
  else cs.foldl (fun acc c => do let n ← acc; let d ← digitValue base c; some (base * n + d)) (some 0)

/-- A number, decimal or `0x` hex (30_encoding R83). -/
def natOf : Chars → Option Nat
  | '0' :: 'x' :: cs => digitsValue 16 cs
  | cs => digitsValue 10 cs

/-- A number with an optional minus sign. -/
def intOf : Chars → Option Int
  | '-' :: cs => (natOf cs).map (fun n => -(n : Int))
  | cs => (natOf cs).map (fun n => (n : Int))

/-- A decimal number without a sign: digits, and a fraction after a point if there is one. -/
def decimalOf (cs : Chars) : Option Rat :=
  let whole := cs.takeWhile (· != '.')
  match cs.drop whole.length with
  | [] => (digitsValue 10 whole).map (fun n => (n : Rat))
  | _ :: frac => do
    let n ← digitsValue 10 whole
    let f ← digitsValue 10 frac
    some (((n * 10 ^ frac.length + f : Nat) : Rat) / ((10 ^ frac.length : Nat) : Rat))

/-- A decimal number with an optional minus sign. -/
def realOf : Chars → Option Rat
  | '-' :: cs => (decimalOf cs).map (fun x => -x)
  | cs => decimalOf cs

/-- A number that must be below a bound. -/
def fieldOf (bound : Nat) (cs : Chars) : Except AsmError Nat :=
  match natOf cs with
  | some n => if n < bound then .ok n else .error .operandTooLarge
  | none => .error .malformed

/-- The section index of a command, which must fit its 4-bit field (30_encoding R83). -/
def sectionOf (cs : Chars) : Except AsmError (BitVec 4) := (fieldOf 16 cs).map (BitVec.ofNat 4)

/-- An operand with no field of its own: any number. -/
def numberOperand (cs : Chars) : Except AsmError Nat :=
  match natOf cs with
  | some n => .ok n
  | none => .error .malformed

/-- A byte operand. -/
def byteOf (cs : Chars) : Except AsmError Byte := (fieldOf 256 cs).map (BitVec.ofNat 8)

/-- The codes of a bracketed list, of any length. -/
def codesOf (ws : List Chars) : Except AsmError (List Byte) := ws.mapM byteOf

/-- The bytes of a string, one a character, of any length. -/
def textOf (t : Chars) : Except AsmError Text :=
  if t.all (fun c => decide (c.toNat < 256)) then .ok (t.map (fun c => BitVec.ofNat 8 c.toNat)) else .error .operandTooLarge

/-- The dot indices of wchr, each naming a character of a text of length `n` (log entry 15). -/
def dotsOf (n : Nat) (ws : List Chars) : Except AsmError (List Nat) := ws.mapM (fieldOf n)

/-- The packet of a command; a list or string longer than 255 does not fit the count field (30_encoding R83). -/
def packetOf (i : Instr) : Except AsmError (List Byte) := if i.wellFormed then .ok (encode i) else .error .operandTooLarge

/-- The optional `align` and `lz` operands of a pseudo-command, with the default alignment (30_encoding R84, 47 R144). -/
def optionsOf (default : Align) (lzAllowed : Bool) : List Operand → Except AsmError (Align × Bool)
  | [] => .ok (default, false)
  | .word w :: rest =>
    let flag (a : Align) : List Operand → Except AsmError (Align × Bool)
      | [] => .ok (a, false)
      | [.word ['l', 'z']] => if lzAllowed then .ok (a, true) else .error .malformed
      | _ => .error .malformed
    match w with
    | ['l', 'e', 'f', 't'] => flag .left rest
    | ['r', 'i', 'g', 'h', 't'] => flag .right rest
    | ['c', 'e', 'n', 't', 'e', 'r'] => flag .center rest
    | _ => flag default (.word w :: rest)
  | _ => .error .malformed

/-- What a line stands for. -/
inductive AsmItem where
  | command (i : Instr)
  | pseudo (c : HostCall)
  deriving DecidableEq

/-- The commands of R83. -/
def asmCommand (name : Chars) (ops : List Operand) : Option (Except AsmError AsmItem) :=
  match name, ops with
  | ['w', 's', 'e', 'c'], [.word s, .codes cs] =>
    some do return .command (.wsec (← sectionOf s) (← codesOf cs))
  | ['w', 'c', 'e', 'l', 'l'], [.word s, .word i, .word c] =>
    some do return .command (.wcell (← sectionOf s) (← byteOf i) (← byteOf c))
  | ['s', 'd', 'o', 't'], [.word s, .word i, .word on] =>
    some do return .command (.sdot (← sectionOf s) (← byteOf i) ((← fieldOf 2 on) == 1))
  | ['w', 'c', 'h', 'r'], [.word s, .str t, .dots ds] =>
    some do return .command (.wchr (← sectionOf s) (dottedCells (← textOf t) (← dotsOf t.length ds)))
  | ['s', 'h', 'o', 'w'], [.word d] =>
    some do return .command (.showFor (BitVec.ofNat 32 (← fieldOf (2 ^ 32) d)))
  | ['u', 'p', 'd', 'a', 't', 'e'], [] => some (.ok (.command .update))
  | ['c', 'l', 'e', 'a', 'r'], [] => some (.ok (.command .clear))
  | _, _ => none

/-- A signed 32-bit integer operand (47 R133). -/
def int32Of (cs : Chars) : Except AsmError Word32 :=
  match intOf cs with
  | some v => if -(2 ^ 31) ≤ v ∧ v < 2 ^ 31 then .ok (BitVec.ofInt 32 v) else .error .operandTooLarge
  | none => .error .malformed

/-- A real operand. -/
def rationalOf (cs : Chars) : Except AsmError Rat :=
  match realOf cs with
  | some x => .ok x
  | none => .error .malformed

/-- A decimal-place count, 0..9 (47 R134). -/
def placesOf (cs : Chars) : Except AsmError (Fin 10) := (fieldOf 10 cs).map (Fin.ofNat 10)

/-- The pseudo-commands of R84, after their `set.` prefix. Their sections, strings and dots have no field: an invalid section sends
nothing, and a text of any length is laid out (47 R138, R148). -/
def asmPseudo (name : Chars) (ops : List Operand) : Except AsmError AsmItem :=
  match name, ops with
  | ['i', 'n', 't'], .word s :: .word v :: opts => do
    let o ← optionsOf .right true opts
    return .pseudo (.setInt (← numberOperand s) (← int32Of v) o.1 o.2)
  | ['r', 'e', 'a', 'l'], .word s :: .word x :: .word n :: opts => do
    let o ← optionsOf .right true opts
    return .pseudo (.setReal (← numberOperand s) (← rationalOf x) (← placesOf n) o.1 o.2)
  | ['c', 'h', 'a', 'r'], .word s :: .str [c] :: opts => do
    let o ← optionsOf .left false opts
    let t ← textOf [c]
    return .pseudo (.setChar (← numberOperand s) (t.headD 0) o.1)
  | ['c', 'h', 'a', 'r'], .word s :: .word c :: opts => do
    let o ← optionsOf .left false opts
    return .pseudo (.setChar (← numberOperand s) (← byteOf c) o.1)
  | ['t', 'e', 'x', 't'], .word s :: .str t :: opts => do
    let o ← optionsOf .left false opts
    return .pseudo (.setText (← numberOperand s) (← textOf t) o.1)
  | ['c', 'h', 'a', 'r', 's'], .word s :: .str t :: .dots ds :: opts => do
    let o ← optionsOf .left false opts
    return .pseudo (.setChars (← numberOperand s) (← textOf t) (← ds.mapM numberOperand) o.1)
  | ['r', 'a', 'w'], [.word s, .codes cs] => do return .pseudo (.setRaw (← numberOperand s) (← codesOf cs))
  | _, _ => .error .malformed

/-- One line: nothing (a blank or comment line), a command or a pseudo-command (30_encoding R83, R84). -/
def assembleLine (line : Chars) : Except AsmError (Option AsmItem) := do
  match ← tokensOf [] line with
  | [] => return none
  | .word name :: ts =>
    match if ts.isEmpty then some [] else operandsOf .operand ts with
    | none => throw .malformed
    | some ops =>
      match name with
      | 's' :: 'e' :: 't' :: '.' :: rest => return some (← asmPseudo rest ops)
      | _ =>
        match asmCommand name ops with
        | some r => return some (← r)
        | none => throw .malformed
  | _ => throw .malformed

/-- The packet of an item: a pseudo-command is expanded by the host procedure and may send nothing (30_encoding R84). -/
def itemBytes (secs : List Section) : AsmItem → Except AsmError (List Byte)
  | .command i => packetOf i
  | .pseudo c =>
    match (hostCall secs c).sent with
    | some i => packetOf i
    | none => .ok []

/-- The lines of a text. -/
def linesOf (text : Chars) : List Chars := text.splitOn '\n'

/-- The command stream of an assembly text, one command a line. -/
def assemble (secs : List Section) (text : Chars) : Except AsmError (List Byte) := do
  let items ← (linesOf text).mapM assembleLine
  let packets ← items.mapM (fun o =>
    match o with
    | some x => itemBytes secs x
    | none => .ok [])
  return packets.flatten

end Sys2Proof.Machine
end

