-- ==== Sys2Proof/Tests/Slice0.lean ====
section
/-! SUPPORT. The model's own tests: ill-formed commands refused, packets written out from the encoding tables, one or two steps per
command with results taken from 95_test_vectors.md, and a witness for the hypotheses of each statement. -/

namespace Sys2Proof.Tests

open Sys2Proof Sys2Proof.Machine

-- One test at a time: elaborated side by side, the kernel evaluations each take a thread of their own and outgrow the memory limit.
set_option Elab.async false

/-! ### Small states -/

/-- X2 of 95_test_vectors.md: two sections of four cells, MUX mode. -/
def x2 (p : Polarity) : State := State.resetWith { Config.defaultInputs with polarity := p, secReq := [4, 4] } referenceGlyphs

/-- M4 of 95_test_vectors.md with the cells of V7, and the time advances the environment has chosen. -/
def m4 (times : List Nat) : State :=
  { State.resetWith { Config.defaultInputs with secReq := [4], tCellMs := 2 } referenceGlyphs with
    cells := [(0, 0x60), (1, 0xDB), (2, 0xF2), (3, 0x66)], timeIn := times }

/-- S3 of 95_test_vectors.md with the cells of V8. -/
def s3 (times : List Nat) : State :=
  { State.resetWith { Config.defaultInputs with polarity := .anode, driveMode := .static, secReq := [3] } referenceGlyphs with
    cells := [(0, 0xFD), (1, 0x9F), (2, 0x25)], timeIn := times }

/-- M4 in a burst. -/
def m4Busy (a : Activity) (dur : Word32) (times : List Nat) : State := { m4 times with cp := .busy a, drv := .scanning, scanDur := dur }

/-- The cells of a next state; none for a stop. -/
def cellsAfter : Outcome → List Byte
  | .next t => (List.range t.cfg.dispLen).map t.cell
  | _ => []

/-- The frames of a next state; none for a stop. -/
def framesAfter : Outcome → List (List Byte)
  | .next t => framesOf t.trace
  | _ => []

/-- CP of a next state. -/
def cpAfter : Outcome → Option CP
  | .next t => some t.cp
  | _ => none

/-- The refusal of a refused outcome. -/
def refusalOf : Outcome → Option Refusal
  | .refused r => some r
  | _ => none

/-- The outcome is a next state. -/
def isNext : Outcome → Bool
  | .next _ => true
  | _ => false

theorem isNext_exists {o : Outcome} (h : isNext o = true) : ∃ t, o = .next t := by
  cases o with
  | next t => exact ⟨t, rfl⟩
  | fault r => cases h
  | refused r => cases h

/-! ### WellFormed: each check refuses an ill-formed term -/

theorem test_wellFormed_wsec_count : (Instr.wsec 0 (List.replicate 256 0)).wellFormed = false := by decide +kernel
theorem test_wellFormed_wchr_count : (Instr.wchr 0 (List.replicate 256 ⟨0, false⟩)).wellFormed = false := by decide +kernel

/-! ### Decode: packets written out bit by bit from 30_encoding R69 to R74, and the refusals of R76, R77 -/

theorem test_decode_wsec : decode [0b00010001, 0b00000010, 0b01100000, 0b11011010] = .cmd (.wsec 1 [0x60, 0xDA]) [] := by decide
theorem test_decode_wcell : decode [0b00101111, 0b11111111, 0b11100000] = .cmd (.wcell 15 255 0xE0) [] := by decide
theorem test_decode_sdot : decode [0b00110000, 0b00000001, 0b00000001] = .cmd (.sdot 0 1 true) [] := by decide
theorem test_decode_wchr :
    decode [0b01000000, 0b00000010, 0b00110011, 0b00000001, 0b00110001, 0b00000000] = .cmd (.wchr 0 [⟨0x33, true⟩, ⟨0x31, false⟩]) [] := by
  decide
theorem test_decode_show : decode [0b10000000, 0b11101000, 0b00000011, 0, 0] = .cmd (.showFor 1000) [] := by decide
theorem test_decode_update : decode [0b10010000] = .cmd .update [] := by decide
theorem test_decode_clear : decode [0b10100000] = .cmd .clear [] := by decide
theorem test_decode_refusals :
    decode [0x00] = .reservedOpcode ∧ decode [0x50] = .reservedOpcode ∧ decode [0xB0] = .reservedOpcode ∧
    decode [0x81, 0x14, 0, 0, 0] = .reservedField ∧ decode [0x91] = .reservedField ∧ decode [0xA3] = .reservedField ∧
    decode [0x30, 1, 2] = .reservedField ∧ decode [0x40, 1, 0x31, 3] = .reservedField ∧ decode [0x80, 1] = .more := by decide

/-! ### Commands (95_test_vectors V3, V4, V7, V8) -/

theorem test_wsec_section1 :
    cellsAfter (exec (.wsec 1 [0x60, 0xDA, 0xF2, 0x66]) (x2 .anode)) = [0xFF, 0xFF, 0xFF, 0xFF, 0x9F, 0x25, 0x0D, 0x99] := by
  decide +kernel
theorem test_wsec_wrong_count : cellsAfter (exec (.wsec 1 [0x60]) (x2 .cathode)) = List.replicate 8 0 := by decide +kernel
theorem test_wcell_section1 : cellsAfter (exec (.wcell 1 2 0xE0) (x2 .cathode)) = [0, 0, 0, 0, 0, 0, 0xE0, 0] := by decide +kernel
theorem test_wcell_past_section : cellsAfter (exec (.wcell 1 4 0xE0) (x2 .cathode)) = List.replicate 8 0 := by decide +kernel
theorem test_sdot_anode : cellsAfter (exec (.sdot 0 1 true) (x2 .anode)) = [0xFF, 0xFE, 0xFF, 0xFF, 0xFF, 0xFF, 0xFF, 0xFF] := by
  decide +kernel
theorem test_sdot_keeps_segments : cellsAfter (exec (.sdot 0 1 false) (m4 [])) = [0x60, 0xDA, 0xF2, 0x66] := by decide +kernel
theorem test_wchr_mixed :
    cellsAfter (exec (.wchr 1 [⟨0x61, true⟩, ⟨0x2E, true⟩, ⟨0x62, true⟩, ⟨0x2D, true⟩]) (x2 .cathode)) =
      [0, 0, 0, 0, 0xEF, 0x01, 0x3F, 0x03] := by decide +kernel
theorem test_wchr_anode :
    cellsAfter (exec (.wchr 0 [⟨0x20, false⟩, ⟨0x33, true⟩, ⟨0x31, false⟩, ⟨0x34, false⟩]) (x2 .anode)) =
      [0xFF, 0x0C, 0x9F, 0x99, 0xFF, 0xFF, 0xFF, 0xFF] := by decide +kernel
theorem test_show_static : framesAfter (exec (.showFor 1000) (s3 [0])) = [[0x25, 0x9F, 0xFD]] := by decide +kernel
theorem test_show_mux_starts : cpAfter (exec (.showFor 20) (m4 [0])) = some (.busy .guard) := by decide +kernel
theorem test_update_static : framesAfter (exec .update (s3 [])) = [[0x25, 0x9F, 0xFD]] := by decide +kernel
theorem test_update_mux : framesAfter (exec .update (m4 [])) = [] := by decide +kernel
theorem test_clear_static : framesAfter (exec .clear (s3 [])) = [[0xFF, 0xFF, 0xFF]] := by decide +kernel
theorem test_clear_mux : framesAfter (exec .clear (m4 [])) = [[0xFF, 0x00]] := by decide +kernel

/-! ### The sequencer, the port and reset -/

theorem test_drive_second_cell : framesAfter (step { m4Busy .drive 20 [0] with scanI := 1 }) = [[0xBF, 0xDB]] := by decide +kernel
theorem test_guard_stops_at_16 : framesAfter (step (m4Busy .guard 20 [16])) = [[0xFF, 0x00]] := by decide +kernel
theorem test_guard_admits_at_8 : cpAfter (step (m4Busy .guard 20 [8])) = some (.busy .drive) := by decide +kernel
theorem test_port_holds_part : cpAfter (step ((x2 .cathode).hostSend [0x20, 0x00])) = some (.busy (.payload [0x20, 0x00])) := by
  decide +kernel
theorem test_port_refuses : refusalOf (step ((x2 .cathode).hostSend [0x91])) = some .reservedField := by decide +kernel
theorem test_reset_cuts_frame :
    (match step { s3 [] with port := [0x90], resetIn := .asserted 2 } with
     | .next t => t.trace
     | _ => []) = [.emit 0x25 .msbFirst, .emit 0x9F .msbFirst, .reset] := by decide +kernel
theorem test_release_invalid :
    refusalOf (step (State.poweredUp { Config.defaultInputs with secReq := [0, 4] } referenceGlyphs)) = some .invalidConfig := by
  decide +kernel
theorem test_first_step_runs : isNext (step (State.reset.withFetchWord 8 0x40)) = true := by decide +kernel
theorem test_sections_truncated : deriveSections 8 0 [5, 5, 2] = [⟨0, 5⟩, ⟨5, 3⟩] := by decide

/-! ### The encoder and the host procedure (95_test_vectors V2, V9) -/

theorem test_enc_digit_dot : enc referenceGlyphs ⟨0x33, true⟩ = 0xF3 := by decide +kernel
theorem test_glyph_corners :
    glyphOf referenceGlyphs 0x7A = 0xDA ∧ glyphOf referenceGlyphs 0x2E = 0x00 ∧ glyphOf referenceGlyphs 0x5B = 0x00 ∧
    glyphOf referenceGlyphs 0xFF = 0x00 ∧ glyphOf referenceGlyphs 0x4D = 0xA8 := by decide +kernel
theorem test_format_real_negative : formatReal (-0.4) 1 = { chars := [0x2D, 0x30, 0x34], point := some 1 } := by decide +kernel
theorem test_layout_overflow :
    layout (plainCells (formatInt 12345)) 4 .center none false =
      { cells := plainCells [0x32, 0x33, 0x34, 0x35], ok := false } := by decide +kernel
theorem test_assemble_lines :
    assemble [⟨0, 4⟩] "wcell 0, 0, 0x02 ; a minus\nset.int 0, 42\nshow 20".toList =
      .ok [0x20, 0x00, 0x02, 0x40, 0x04, 0x20, 0x00, 0x20, 0x00, 0x34, 0x00, 0x32, 0x00, 0x80, 0x14, 0, 0, 0] := by decide +kernel
theorem test_assemble_no_field :
    assemble [⟨0, 1⟩] "set.text 16, \"AB\"\nset.chars 0, \"AB\", ".toList = .error .malformed ∧
    assemble [⟨0, 1⟩] "set.text 16, \"AB\"\nset.raw 99, [1]".toList = .ok [] ∧
    assemble [⟨0, 1⟩] ("set.text 0, \"".toList ++ List.replicate 300 'A' ++ ['"']) = .ok [0x40, 0x01, 0x41, 0x00] := by decide +kernel
theorem test_assemble_too_large : assemble [] "wcell 16, 0, 0".toList = .error .operandTooLarge := by decide +kernel

/-! ### Witnesses: a concrete state and operands that meet the hypotheses of each statement -/

theorem witness_DecodeOfEncodeIsTheCommand :
    (Instr.wsec 15 (List.replicate 255 0xFF)).wellFormed = true ∧ (Instr.wchr 0 (List.replicate 255 ⟨0, true⟩)).wellFormed = true := by
  decide +kernel
theorem witness_EncodeOfDecodeIsThePacket : decode [0x3F, 0xFF, 0x01, 0x07] = .cmd (.sdot 15 255 true) [0x07] := by decide
theorem witness_ReservedOpcodeIsRefused :
    ∀ h ∈ ([0x0F, 0x50, 0x7F, 0xB0, 0xFF] : List Byte), Running (State.reset.setPort [h]) ∧ (State.reset.setPort [h]).cp = .ready ∧
      (opField h = 0 ∨ (5 ≤ (opField h).toNat ∧ (opField h).toNat ≤ 7) ∨ 11 ≤ (opField h).toNat) := by decide +kernel
theorem witness_ReservedFieldIsRefused_header :
    Running (State.reset.setPort [0x8F, 0, 0, 0, 0]) ∧ ([0x8F, 0, 0, 0, 0] : List Byte) = header 8 15 :: ([0, 0, 0, 0] ++ []) ∧
    ([0x91] : List Byte) = header 9 1 :: ([] ++ []) ∧ ([0xA1] : List Byte) = header 10 1 :: ([] ++ []) := by decide +kernel
theorem witness_ReservedFieldIsRefused_flags :
    ([0x30, 1, 2] : List Byte) = header 3 0 :: 1 :: 2 :: [] ∧ (2 : Byte).extractLsb' 1 7 ≠ 0 ∧
    ([0x40, 1, 0x31, 0x80] : List Byte) =
      header 4 0 :: BitVec.ofNat 8 [((0x31, 0x80) : Byte × Byte)].length ::
        ([((0x31, 0x80) : Byte × Byte)].flatMap (fun p => [p.1, p.2]) ++ []) ∧
    (0x80 : Byte).extractLsb' 1 7 ≠ 0 := by decide +kernel
theorem witness_StepRunsTheDecodedCommand :
    Running (State.reset.setPort [0xA0, 0x90]) ∧ (State.reset.setPort [0xA0, 0x90]).cp = .ready ∧
    decode [0xA0, 0x90] = .cmd .clear [0x90] ∧
    Running ((State.reset.setPort [0]).setCp (.busy (.payload [0x20, 0]))) ∧ decode ([0x20, 0] ++ [0]) = .cmd (.wcell 0 0 0) [] := by
  decide +kernel
theorem witness_SplitPacketRunsTheCommand :
    Running (State.reset.setPort [0x80, 1]) ∧ encode (.showFor 1) = [0x80, 1] ++ [0, 0, 0] ∧ (State.reset.setPort [0x80, 1]).cp = .ready := by
  decide +kernel
theorem witness_FailingAddressConsumesThePacket :
    Running ((x2 .anode).setPort [0x20, 4, 0, 0x90]) ∧ ((x2 .anode).setPort [0x20, 4, 0, 0x90]).cp = .ready ∧
    ([0x20, 4, 0, 0x90] : List Byte) = encode (.wcell 0 4 0) ++ [0x90] ∧
    ∀ i ∈ [Instr.wcell 0 4 0, .sdot 1 4 true, .wsec 0 [1, 2, 3], .wchr 1 [], .wcell 2 0 0, .wsec 15 [1, 2, 3, 4]],
      i.wellFormed = true ∧ AddressFails (x2 .anode) i := by
  refine ⟨⟨rfl, rfl⟩, rfl, by decide, ?_⟩
  simp only [List.forall_mem_cons, List.not_mem_nil, false_imp_iff, implies_true, and_true]
  refine ⟨⟨by decide, ?_⟩, ⟨by decide, ?_⟩, ⟨by decide, ?_⟩, ⟨by decide, ?_⟩, ⟨by decide, ?_⟩, ⟨by decide, ?_⟩⟩ <;>
    intro r h <;> cases h <;> decide
theorem witness_BytesTransferOnlyWhenReady :
    State.Inv { x2 .cathode with port := [0x90], resetIn := .asserted 1 } ∧
    State.cmdReady { x2 .cathode with port := [0x90], resetIn := .asserted 1 } = true ∧
    State.cmdReady { x2 .cathode with port := [0x90], resetIn := .asserted 0 } = false ∧
    ∃ t, step { x2 .cathode with port := [0x90], resetIn := .asserted 1 } = .next t :=
  ⟨by decide +kernel, by decide, by decide, isNext_exists (by decide +kernel)⟩
theorem witness_BusyBlockAcceptsNothing :
    Running (m4Busy .guard 20 [0]) ∧ OutputBusy (m4Busy .guard 20 [0]) ∧ ∃ t, step (m4Busy .guard 20 [0]) = .next t :=
  ⟨⟨rfl, rfl⟩, ⟨.guard, rfl, fun _ h => by cases h⟩, isNext_exists (by decide +kernel)⟩
theorem witness_WsecReplacesItsSection :
    BufferOk (x2 .anode) ∧ (x2 .anode).cfg.sections[(1 : BitVec 4).toNat]? = some ⟨4, 4⟩ ∧ ([1, 2, 3, 4] : List Byte).length = 4 ∧
    (x2 .anode).cfg.sections[(2 : BitVec 4).toNat]? = none ∧ ([1, 2, 3] : List Byte).length ≠ 4 := by decide +kernel
theorem witness_WcellReplacesOneCell :
    BufferOk (x2 .cathode) ∧ (x2 .cathode).cfg.sections[(1 : BitVec 4).toNat]? = some ⟨4, 4⟩ ∧ (3 : Byte).toNat < 4 ∧ 4 ≤ (4 : Byte).toNat ∧
    (x2 .cathode).cfg.sections[(2 : BitVec 4).toNat]? = none := by decide +kernel
theorem witness_SdotSetsOneDot :
    BufferOk (x2 .anode) ∧ (x2 .anode).cfg.sections[(0 : BitVec 4).toNat]? = some ⟨0, 4⟩ ∧ (3 : Byte).toNat < 4 ∧ 4 ≤ (4 : Byte).toNat ∧
    (x2 .anode).cfg.sections[(15 : BitVec 4).toNat]? = none := by decide +kernel
theorem witness_WchrEncodesItsWindow :
    BufferOk (x2 .cathode) ∧ (x2 .cathode).cfg.sections[(0 : BitVec 4).toNat]? = some ⟨0, 4⟩ ∧
    (List.replicate 4 (⟨0x31, true⟩ : CharCell)).length = 4 ∧ ([] : List CharCell).length ≠ 4 ∧
    (x2 .cathode).cfg.sections[(2 : BitVec 4).toNat]? = none := by decide +kernel
theorem witness_WritesStayInTheirSection : writeSection (.wcell 1 2 0xE0) = some 1 ∧ ∃ t, exec (.wcell 1 2 0xE0) (x2 .cathode) = .next t :=
  ⟨rfl, isNext_exists (by decide +kernel)⟩
theorem witness_WritesAreIdempotent :
    BufferOk (m4 []) ∧ writeSection (.sdot 0 3 true) = some 0 ∧ ∃ t, exec (.sdot 0 3 true) (m4 []) = .next t :=
  ⟨by decide +kernel, rfl, isNext_exists (by decide +kernel)⟩
theorem witness_WritesComplementUnderPolarity :
    BufferOk (x2 .cathode) ∧ BufferOk { x2 .cathode with cfg := { (x2 .cathode).cfg with polarity := .anode } } ∧
    (∀ a, State.cell { x2 .cathode with cfg := { (x2 .cathode).cfg with polarity := .anode } } a = ~~~((x2 .cathode).cell a)) ∧
    writeSection (.wcell 0 0 1) = some 0 ∧ ∃ t, exec (.wcell 0 0 1) (x2 .cathode) = .next t :=
  ⟨by decide +kernel, by decide +kernel, fun _ => rfl, rfl, isNext_exists (by decide +kernel)⟩
theorem witness_WritesIgnoreTheDriveMode :
    (∀ i ∈ [Instr.sdot 0 0 true, .wcell 1 3 0xFF], ∃ sec, writeSection i = some sec) ∧
    ∃ t, execAll [.sdot 0 0 true, .wcell 1 3 0xFF] (x2 .anode) = .next t := by
  refine ⟨fun i h => ?_, isNext_exists (by decide +kernel)⟩
  simp only [List.mem_cons, List.not_mem_nil, or_false] at h
  rcases h with rfl | rfl <;> exact ⟨_, rfl⟩
theorem witness_LastWriteWins :
    BufferOk (x2 .anode) ∧ (x2 .anode).cfg.sections[(1 : BitVec 4).toNat]? = some ⟨4, 4⟩ ∧ (3 : Byte).toNat < 4 ∧
    ∀ i ∈ [Instr.wsec 1 [1, 2, 3, 4], .wcell 1 3 4, .wchr 1 (List.replicate 4 ⟨0x31, true⟩)],
      writeSection i = some 1 ∧ ¬ AddressFails (x2 .anode) i ∧ (codeWritten (x2 .anode).glyph 3 i).isSome = true := by
  refine ⟨by decide +kernel, by decide, by decide, ?_⟩
  simp only [List.forall_mem_cons, List.not_mem_nil, false_imp_iff, implies_true, and_true]
  refine ⟨⟨rfl, fun h => ?_, by decide⟩, ⟨rfl, fun h => ?_, by decide⟩, ⟨rfl, fun h => ?_, by decide +kernel⟩⟩ <;>
    exact absurd (h ⟨4, 4⟩ (by decide)) (by decide)
theorem witness_UpdateSendsTheBuffer : (s3 []).cfg.driveMode = .static ∧ (m4 []).cfg.driveMode = .mux := by decide
theorem witness_ClearSendsTheBlankFrame :
    (s3 []).cfg.driveMode = .static ∧ (m4 []).cfg.driveMode = .mux ∧ (m4 []).cfg.swapped = false ∧
    (State.resetWith { Config.defaultInputs with swapped := true } referenceGlyphs).cfg.swapped = true := by decide
theorem witness_ShowStartsItsOutput : (s3 []).cfg.driveMode = .static ∧ (m4 []).cfg.driveMode = .mux := by decide
theorem witness_GuardDecidesBeforeThePass :
    Running (m4Busy .guard 20 [13]) ∧ (m4Busy .guard 20 [13]).cp = .busy .guard ∧
    (20 : Word32).toNat < ((m4Busy .guard 20 [13]).now - 0).toNat + 4 * (2 + 0) ∧
    ((m4Busy .guard 20 [12]).now - 0).toNat + 4 * (2 + 0) ≤ (20 : Word32).toNat := by decide +kernel
theorem witness_DriveSendsTheCellFrame :
    State.Inv { m4Busy .drive 20 [] with scanI := 3 } ∧ Running { m4Busy .drive 20 [] with scanI := 3 } := by decide +kernel
theorem witness_SliceWaitsThenAdvances :
    Running (m4Busy (.slice 0) 20 [1]) ∧ ((m4Busy (.slice 0) 20 [1]).now - 0).toNat < (m4 []).cfg.tCellMs.toNat ∧
    (m4 []).cfg.tCellMs.toNat ≤ ((m4Busy (.slice 0) 20 [2]).now - 0).toNat ∧ 2 + 1 < (m4 []).cfg.dispLen ∧ (m4 []).cfg.dispLen ≤ 3 + 1 := by
  decide +kernel
theorem witness_BurstSendsWholePasses :
    (m4Busy .guard 7 [0]).Inv ∧ Running (m4Busy .guard 7 [0]) ∧ (m4Busy .guard 7 [0]).port = [] ∧
    (match steps 1 (m4Busy .guard 7 [0]) with
     | .next t => decide (t.cp = .ready)
     | _ => false) = true := by decide +kernel
theorem witness_ExactTimingPassCount :
    let s := (m4 (5 :: (exactTiming 4 2 1 ++ []))).setPort (encode (.showFor 8))
    s.Inv ∧ Running s ∧ s.cfg.driveMode = .mux ∧ s.cp = .ready ∧ s.cfg.tFrameMs = 0 ∧ 1 = (8 : Word32).toNat / s.tPass ∧
      s.cfg.dispLen = 4 ∧ s.cfg.tCellMs.toNat = 2 := by decide +kernel
theorem witness_PassCountIsBounded :
    let s := (m4 [0, 5]).setPort (encode (.showFor 7))
    s.Inv ∧ Running s ∧ s.cfg.driveMode = .mux ∧ s.cp = .ready ∧ s.cfg.tFrameMs = 0 ∧
    (match steps 2 s with
     | .next t => decide (t.cp = .ready ∧ t.clock < s.clock + 2 ^ 32)
     | _ => false) = true := by decide +kernel
theorem witness_AdmittedPassEndsInTime :
    (m4Busy .guard 8 [0]).passOverruns (m4Busy .guard 8 [0]).now = false ∧
    elapsed (m4Busy .guard 8 [0]).now 8 ≤ (m4Busy .guard 8 [0]).tPass := by decide +kernel
/-- One cell, T_CELL_MS = 2, `show 2` on the port: one pass, with every read and wait exact. -/
def oneCell : State :=
  { State.resetWith { Config.defaultInputs with secReq := [1], tCellMs := 2 } referenceGlyphs with
    port := encode (.showFor 2), timeIn := [5, 0, 0, 2, 0] }
/-- The states of its run: SHOW, guard, cell, slice, guard. -/
def oneCellRun (k : Nat) : State :=
  match steps k oneCell with
  | .next t => t
  | _ => oneCell
/-- The true times at which the steps of that run end. -/
def oneCellEnds (k : Nat) : Nat := if k < 3 then 5 else 7
/-- The outcome is this next state. -/
def isNextState (o : Outcome) (t : State) : Bool :=
  match o with
  | .next u => decide (u = t)
  | _ => false
theorem isNextState_eq {o : Outcome} {t : State} (h : isNextState o t = true) : o = .next t := by
  cases o with
  | next u => exact congrArg _ (of_decide_eq_true h)
  | fault r => cases h
  | refused r => cases h
theorem oneCellRun_cp : ∀ k < 6, (oneCellRun k).cp =
    [CP.ready, .busy .guard, .busy .drive, .busy (.slice 5), .busy .guard, .ready].getD k .ready := by decide +kernel
theorem witness_BurstEndsInTimeUnderAPass :
    ((oneCellRun 0).Inv ∧ Running (oneCellRun 0) ∧ (oneCellRun 0).cfg.driveMode = .mux ∧ (oneCellRun 0).cp = .ready ∧
      (oneCellRun 0).port = encode (.showFor 2)) ∧
    TimedRun oneCellRun oneCellEnds 5 ∧ APass oneCellRun oneCellEnds 5 ∧ (∀ i, 0 < i → i < 5 → (oneCellRun i).cp ≠ .ready) ∧
    (oneCellRun 5).cp = .ready ∧ (oneCellRun 5).clock < (oneCellRun 0).clock + 2 ^ 32 ∧ ∃ k, k < 5 ∧ AdmitsPass oneCellRun k := by
  refine ⟨by decide +kernel, fun k hk => ?_, fun k j _ hj hk _ _ => ?_, ?_, by decide +kernel, by decide +kernel, 1, by decide, ?_⟩
  · have h : ∀ k < 5, isNextState (step (oneCellRun k)) (oneCellRun (k + 1)) = true ∧ (oneCellRun (k + 1)).clock ≤ oneCellEnds k ∧
        (k + 1 < 5 → oneCellEnds k ≤ oneCellEnds (k + 1)) := by decide +kernel
    exact ⟨isNextState_eq (h k hk).1, (h k hk).2⟩
  · have h : ∀ k < 5, (oneCellRun k).cp = .busy .guard ∧ (oneCellRun (k + 1)).cp = .busy .drive →
        ∀ j < 5, oneCellEnds j ≤ (oneCellRun (k + 1)).clock + (oneCellRun k).tPass := by decide +kernel
    exact h k (by omega) hk j hj
  · have h : ∀ i < 5, 0 < i → (oneCellRun i).cp ≠ .ready := by decide +kernel
    exact fun i h0 h5 => h i h5 h0
  · exact ⟨(oneCellRun_cp 1 (by decide)).trans rfl, (oneCellRun_cp 2 (by decide)).trans rfl⟩
theorem witness_HoldWaitsThenClears :
    let s := { s3 [4] with cp := .busy (.hold 0 5) }
    let t := { s3 [5] with cp := .busy (.hold 0 5) }
    Running s ∧ Running t ∧ (s.now - 0).toNat < (5 : Word32).toNat ∧ (5 : Word32).toNat ≤ (t.now - 0).toNat := by decide +kernel
theorem witness_StaticShowHoldsThenClears :
    let s := (s3 [0, 5]).setPort (encode (.showFor 5))
    Running s ∧ s.cfg.driveMode = .static ∧ s.cp = .ready ∧ s.timeIn = [0, 5] ∧ (5 : Word32).toNat ≤ 5 ∧ 5 < (6 : Word32).toNat := by
  decide +kernel
theorem witness_StaticModeIgnoresScanRegisters :
    State.Inv ((s3 []).setPort [0x90]) ∧ Running ((s3 []).setPort [0x90]) ∧ (s3 []).cfg.driveMode = .static ∧
    (∃ t, step ((s3 []).setPort [0x90]) = .next t) ∧ refusalOf (step ((s3 []).setPort [0x91])) = some .reservedField :=
  ⟨by decide +kernel, ⟨rfl, rfl⟩, rfl, isNext_exists (by decide +kernel), by decide +kernel⟩
theorem witness_ReleaseLoadsTheConfiguration :
    configValid Config.defaultInputs referenceGlyphs = true ∧
    (State.poweredUp Config.defaultInputs referenceGlyphs).resetIn = .released ∧
    (State.poweredUp Config.defaultInputs referenceGlyphs).inReset = true ∧
    configValid { Config.defaultInputs with secReq := [] } referenceGlyphs = false := by decide +kernel
theorem test_invalid_configurations :
    ∀ c ∈ [{ Config.defaultInputs with maxCells := 0 }, { Config.defaultInputs with maxCells := 9 },
        { Config.defaultInputs with secReq := [] }, { Config.defaultInputs with secReq := List.replicate 17 1 },
        { Config.defaultInputs with secReq := [0] }, { Config.defaultInputs with secReq := [256] },
        { Config.defaultInputs with customSel := some ⟨[1, 2], 0⟩ }, { Config.defaultInputs with tCellMs := 0 }],
      configValid c referenceGlyphs = false := by decide +kernel
theorem test_invalid_glyphs : configValid Config.defaultInputs [(0x41, 0x01)] = false := by decide
theorem test_valid_corners :
    configValid { Config.defaultInputs with maxCells := 1, secReq := List.replicate 16 255 } referenceGlyphs = true ∧
    configValid { Config.defaultInputs with driveMode := .static, customSel := some ⟨[], 0⟩ } referenceGlyphs = true := by decide +kernel
theorem witness_DefaultSelectCodes :
    Config.defaultInputs.maxCells ≤ 8 ∧ Config.defaultInputs.customSel = none ∧ Config.defaultInputs.polarity = .cathode ∧
    ({ Config.defaultInputs with polarity := .anode } : ConfigInputs).customSel = none ∧
    ({ Config.defaultInputs with customSel := some ⟨[], 1⟩ } : ConfigInputs).customSel = some ⟨[], 1⟩ := by decide
theorem witness_DerivedSectionsTileTheBuffer : 1 ≤ 8 ∧ [5, 5, 2] ≠ [] ∧ ∀ n ∈ [5, 5, 2], 1 ≤ n := by decide
theorem witness_AssertedResetCutsTheCommand :
    let s := { s3 [] with port := [0x90], resetIn := .asserted 2 }
    s.inReset = false ∧ ∃ u, run s = .next u := ⟨rfl, isNext_exists (by decide +kernel)⟩
theorem test_reset_cuts_read_off :
    (match step { s3 [7] with port := encode (.showFor 5), resetIn := .asserted 2 } with
     | .next t => (t.timeIn, t.clock, t.draws)
     | _ => ([], 1, 1)) = ([7], 0, 0) := by decide +kernel
theorem witness_AssertedResetCutsTheCommand_read :
    let s := { m4 [7] with port := encode (.showFor 5), resetIn := .asserted 1 }
    s.inReset = false ∧ (match run s with
     | .next u => (u.trace.drop s.trace.length).take 1 == [Event.now 7]
     | _ => false) = true := by decide +kernel
theorem witness_ResetHoldsTheBlock :
    (State.hostAssertReset (State.poweredUp Config.defaultInputs referenceGlyphs) 0).resetIn = .asserted 0 ∧
    (State.hostAssertReset (State.poweredUp Config.defaultInputs referenceGlyphs) 0).inReset = true := by decide
theorem witness_ResetRecoversFromAnyState :
    (m4Busy .guard 20 []).inReset = false ∧ configValid Config.defaultInputs (m4Busy .guard 20 []).glyph = true := by decide +kernel
theorem witness_EveryValidResetMeetsTheInvariant :
    configValid { Config.defaultInputs with driveMode := .static, secReq := [4, 3, 3] } referenceGlyphs = true := by decide +kernel
theorem witness_EveryStepKeepsTheInvariant : (m4Busy .guard 20 [0]).Inv ∧ ∃ t, step (m4Busy .guard 20 [0]) = .next t :=
  ⟨by decide +kernel, isNext_exists (by decide +kernel)⟩
theorem witness_NoStepFaults : State.Inv { m4Busy .drive 20 [] with scanI := 3 } := by decide +kernel
theorem witness_EveryCommandHasAnOutcome : BufferOk (x2 .anode) := by decide +kernel
theorem witness_ConfigurationIsReadOnly : Running (s3 []) ∧ ∃ t, step (s3 []) = .next t := ⟨⟨rfl, rfl⟩, isNext_exists (by decide +kernel)⟩
theorem witness_EveryFrameIsLatched :
    (chainView (State.trace ((s3 []).setPort [0x90]))).pending = [] ∧ ∃ t, step ((s3 []).setPort [0x90]) = .next t :=
  ⟨rfl, isNext_exists (by decide +kernel)⟩
theorem witness_EveryEmitUsesTheBitOrder :
    Running ((s3 []).setPort [0x90]) ∧ ∃ t, step ((s3 []).setPort [0x90]) = .next t := ⟨⟨rfl, rfl⟩, isNext_exists (by decide +kernel)⟩
theorem witness_TraceGrowsAndTimeAdvances : ∃ t, step ((s3 []).setPort [0xA0]) = .next t := isNext_exists (by decide +kernel)
theorem witness_ChainChangesOnlyWhenSent :
    (match step { s3 [] with port := [0x90], resetIn := .asserted 0 } with
     | .next t => decide (outputs t.trace = outputs (s3 []).trace)
     | _ => false) = true ∧
    (match step (m4Busy (.slice 0) 20 [1]) with
     | .next t => decide (outputs t.trace = outputs (m4 []).trace)
     | _ => false) = true := by decide +kernel
theorem witness_DisplayFollowsUpdateNotWrites :
    (chainView (s3 []).trace).pending = [] ∧ (s3 []).cfg.driveMode = .static ∧ (∃ t, exec .update (s3 []) = .next t) ∧
    writeSection (.wcell 0 0 1) = some 0 ∧ ∃ t, exec (.wcell 0 0 1) (s3 []) = .next t :=
  ⟨rfl, rfl, isNext_exists (by decide +kernel), rfl, isNext_exists (by decide +kernel)⟩
theorem witness_EqualCellsAreEqualBuffers : Memory.wf 0 8 [(0, 1), (7, 2)] = true := by decide
theorem witness_StoredDigitsDecode : 0 < 10 ∧ 9 < 10 := by decide
theorem witness_RightAlignedIntegersRoundTrip : (formatInt (1234 : Nat)).length ≤ 4 ∧ (formatInt (0 : Nat)).length ≤ 1 := by decide +kernel
theorem witness_NegativeIntegersShowOneMinus :
    (decimalDigits 12).length + 1 ≤ 3 ∧ 2 < (decimalDigits 12).length + 1 := by decide +kernel
theorem witness_SmallNegativeRealsKeepTheirZero :
    (-1 : Rat) < -0.4 ∧ (-0.4 : Rat) < 0 ∧ roundHalfAway ((-0.4 : Rat) * (10 ^ (1 : Fin 10).val : Nat)) = -4 ∧
    1 ≤ (1 : Fin 10).val := by decide +kernel
theorem witness_HostWindowFitsItsSection :
    registersOk (x2 .cathode).cfg = true ∧ (∀ sec codes, HostCall.setInt 1 5 .right true ≠ .setRaw sec codes) ∧
    (x2 .cathode).cfg.sections[(HostCall.setInt 1 5 .right true).section]? = some ⟨4, 4⟩ ∧
    (x2 .cathode).cfg.nsec ≤ (HostCall.setInt 2 5 .right true).section ∧ (x2 .cathode).cfg.nsec ≤ (HostCall.setRaw 16 [1]).section :=
  ⟨by decide +kernel, fun _ _ h => HostCall.noConfusion h, by decide +kernel, by decide +kernel, by decide +kernel⟩

end Sys2Proof.Tests
end

namespace Sys2Proof.Machine

/-! ### What a canonical list reads (20_memory R37) -/

/-- A read gives the blank or a listed byte. -/
theorem Memory.read_eq_blank_or_mem (blank : Byte) (m : Memory) (a : Nat) :
    Memory.read blank m a = blank ∨ (a, Memory.read blank m a) ∈ m := by
  induction m with
  | nil => exact .inl rfl
  | cons e m ih =>
    obtain ⟨k, b⟩ := e
    by_cases hk : k = a
    · simp [Memory.read, hk]
    · simpa [Memory.read, hk, Ne.symm hk] using ih

/-- An entry of a canonical list names an index of the space, at or above the list's lower bound. -/
theorem Memory.index_of_mem {blank : Byte} {len : Nat} {e : Host.Cell} {m : Memory} :
    ∀ {lo : Nat}, Memory.wfFrom blank len lo m = true → e ∈ m → lo ≤ e.1 ∧ e.1 < len := by
  induction m with
  | nil => simp
  | cons x m ih =>
    intro lo h he
    simp only [Memory.wfFrom, Bool.and_eq_true, decide_eq_true_eq] at h
    obtain ⟨⟨⟨hlo, hlen⟩, -⟩, hm⟩ := h
    rcases List.mem_cons.mp he with rfl | he
    · exact ⟨hlo, hlen⟩
    · have := ih hm he
      omega

/-- A canonical list reads back each of its entries. -/
theorem Memory.read_of_mem {blank : Byte} {len : Nat} {e : Host.Cell} {m : Memory} :
    ∀ {lo : Nat}, Memory.wfFrom blank len lo m = true → e ∈ m → Memory.read blank m e.1 = e.2 := by
  induction m with
  | nil => simp
  | cons x m ih =>
    intro lo h he
    simp only [Memory.wfFrom, Bool.and_eq_true] at h
    obtain ⟨-, hm⟩ := h
    rcases List.mem_cons.mp he with rfl | he
    · simp [Memory.read]
    · have hne : x.1 ≠ e.1 := by have := Memory.index_of_mem hm he; omega
      simpa [Memory.read, hne] using ih hm he

/-! ### Valid configurations (00_scope R8) -/

/-- The check of the ROM's entries is a check of every glyph the ROM gives. -/
theorem glyphsOk_iff (g : GlyphTable) : glyphsOk g = true ↔
    (∀ ch : Byte, (glyphOf g ch).getLsbD 0 = false) ∧ Memory.wf blankCode 256 g = true := by
  simp only [glyphsOk, Bool.and_eq_true, List.all_eq_true, Bool.not_eq_true']
  refine and_congr_left fun hwf => ⟨fun hbit ch => ?_, fun hbit e he => ?_⟩
  · rcases Memory.read_eq_blank_or_mem blankCode g ch.toNat with hblank | hmem
    · rw [glyphOf, hblank]
      rfl
    · exact hbit _ hmem
  · have hlt : e.1 < 256 := (Memory.index_of_mem hwf he).2
    have hread : glyphOf g (BitVec.ofNat 8 e.1) = e.2 := by
      simpa [glyphOf, Nat.mod_eq_of_lt hlt] using Memory.read_of_mem hwf he
    exact hread ▸ hbit _

/-- The default select table has a code for each cell (30_encoding R65), so only a custom one can be of another length. -/
theorem selectTable_length_iff (c : ConfigInputs) : (selectTable c).sel.length = c.maxCells ↔
    ∀ t, c.customSel = some t → t.sel.length = c.maxCells := by
  cases h : c.customSel <;> simp [selectTable, defaultSel, h]

/-- The validity check, taken apart. -/
theorem configValid_iff (c : ConfigInputs) (g : GlyphTable) : configValid c g = true ↔
    (1 ≤ c.maxCells ∧ c.maxCells ≤ 8) ∧ (1 ≤ c.secReq.length ∧ c.secReq.length ≤ 16) ∧ (∀ n ∈ c.secReq, 1 ≤ n ∧ n ≤ 255) ∧
    (c.driveMode = .mux → (selectTable c).sel.length = c.maxCells) ∧ 1 ≤ c.tCellMs.toNat ∧ glyphsOk g = true := by
  simp only [configValid, Bool.and_eq_true, decide_eq_true_eq, List.all_eq_true, and_assoc]
  cases c.driveMode <;> simp

/-- Settles O56: the check taken apart, with the default select table always of the right length and the check of the ROM's entries
the same as one of every glyph. -/
theorem validConfigurations : Obligations.ValidConfigurations := by
  intro c g
  rw [configValid_iff, selectTable_length_iff, glyphsOk_iff]
  rfl

/-! ### Section derivation (10_state R18, R20) -/

@[simp] theorem sectionsLength_nil : sectionsLength [] = 0 := rfl

@[simp] theorem sectionsLength_cons (r : Section) (secs : List Section) :
    sectionsLength (r :: secs) = r.len + sectionsLength secs := by simp [sectionsLength]

/-- Past the cap every section is dropped. -/
theorem deriveSections_full {cap start : Nat} (h : cap ≤ start) (req : List Nat) : deriveSections cap start req = [] := by
  cases req <;> simp [deriveSections, h]

/-- Below the cap the next section is kept, truncated where it crosses it. -/
theorem deriveSections_cons {cap start : Nat} (h : start < cap) (n : Nat) (req : List Nat) :
    deriveSections cap start (n :: req) =
      { start := start, len := min n (cap - start) } :: deriveSections cap (start + min n (cap - start)) req := by
  simp [deriveSections, h]

/-- The derived sections follow one another from the first free cell, none of them empty. -/
theorem sectionsFrom_deriveSections (cap : Nat) (req : List Nat) (hreq : ∀ n ∈ req, 1 ≤ n) :
    ∀ start, sectionsFrom start (deriveSections cap start req) = true := by
  induction req with
  | nil => exact fun _ => rfl
  | cons n req ih =>
    intro start
    obtain ⟨hn, hreq⟩ := List.forall_mem_cons.mp hreq
    by_cases h : start < cap
    · have hlen : 1 ≤ min n (cap - start) := by omega
      rw [deriveSections_cons h]
      simp only [sectionsFrom, beq_self_eq_true, hlen, decide_true, Bool.true_and]
      exact ih hreq _
    · rw [deriveSections_full (by omega)]
      rfl

/-- The derived sections cover the requested total, cut at the cap. -/
theorem sectionsLength_deriveSections (cap : Nat) (req : List Nat) :
    ∀ start, sectionsLength (deriveSections cap start req) = min req.sum (cap - start) := by
  induction req with
  | nil => simp [deriveSections]
  | cons n req ih =>
    intro start
    by_cases h : start < cap
    · simp only [deriveSections_cons h, sectionsLength_cons, ih, List.sum_cons]
      omega
    · rw [deriveSections_full (by omega), sectionsLength_nil]
      omega

/-- At least one section is kept, since the first one begins at cell 0. -/
theorem one_le_length_deriveSections {cap : Nat} {req : List Nat} (hcap : 1 ≤ cap) (hreq : 1 ≤ req.length) :
    1 ≤ (deriveSections cap 0 req).length := by
  obtain ⟨n, req, rfl⟩ := List.exists_cons_of_length_pos hreq
  simp [deriveSections_cons hcap]

/-! ### The state after reset (10_state R36) -/

/-- The registers that release loads from a valid configuration are valid (00_scope R8; 10_state R20, R24). -/
theorem loadRegisters_ok {c : ConfigInputs} {g : GlyphTable} (h : configValid c g = true) : registersOk (loadRegisters c) = true := by
  obtain ⟨⟨hmin, hmax⟩, ⟨hone, -⟩, hreq, hsel, htime, -⟩ := (configValid_iff c g).mp h
  have hlen : sectionsLength (deriveSections c.maxCells 0 c.secReq) ≤ c.maxCells := by
    rw [sectionsLength_deriveSections]
    omega
  exact registersOk_iff.mpr ⟨one_le_length_deriveSections hmin hone, sectionsFrom_deriveSections _ _ (fun n hn => (hreq n hn).1) 0, rfl,
    ⟨hlen, hmax⟩, hsel, htime⟩

/-- Settles O37: the registers and the ROM are those of a valid configuration, no cell is listed, and the sequencer is idle. -/
theorem everyValidResetMeetsTheInvariant : Obligations.EveryValidResetMeetsTheInvariant := by
  intro c g h
  obtain ⟨-, -, -, -, -, hglyphs⟩ := (configValid_iff c g).mp h
  exact ⟨loadRegisters_ok h, hglyphs, Memory.wf_nil _ _, rfl⟩

end Sys2Proof.Machine

/-! ### Complete and incomplete packets (30_encoding R68, R69 to R74) -/

namespace Sys2Proof

/-- What is read from a stream when `ys` follows it, for a stream that already decodes. -/
def Decoded.followedBy (ys : List Byte) : Decoded → Decoded
  | .cmd i rest => .cmd i (rest ++ ys)
  | .more => .more
  | .reservedOpcode => .reservedOpcode
  | .reservedField => .reservedField

theorem takeBytes_append_of_some {n : Nat} {bs xs rest : List Byte} (ys : List Byte) (h : takeBytes n bs = some (xs, rest)) :
    takeBytes n (bs ++ ys) = some (xs, rest ++ ys) := by
  obtain ⟨rfl, rfl⟩ := takeBytes_split _ _ _ _ h
  rw [List.append_assoc, takeBytes_append]

theorem takePairs_append_of_some (ys : List Byte) : ∀ {n : Nat} {bs rest : List Byte} {ps : List (Byte × Byte)},
    takePairs n bs = some (ps, rest) → takePairs n (bs ++ ys) = some (ps, rest ++ ys)
  | 0, bs, rest, ps, h => by simp_all [takePairs]
  | n + 1, [], rest, ps, h => by simp [takePairs] at h
  | n + 1, [_], rest, ps, h => by simp [takePairs] at h
  | n + 1, c :: f :: bs, rest, ps, h => by
    cases hn : takePairs n bs with
    | none => simp [takePairs, hn] at h
    | some p =>
      have := takePairs_append_of_some ys hn
      simp_all [takePairs]

theorem decodeWsec_append (sec : BitVec 4) (bs ys : List Byte) (h : decodeWsec sec bs ≠ .more) :
    decodeWsec sec (bs ++ ys) = (decodeWsec sec bs).followedBy ys := by
  cases bs with
  | nil => exact absurd rfl h
  | cons n bs =>
    cases hn : takeBytes n.toNat bs with
    | none => simp [decodeWsec, hn] at h
    | some p => simp [decodeWsec, hn, takeBytes_append_of_some ys hn, Decoded.followedBy]

theorem decodeWchr_append (sec : BitVec 4) (bs ys : List Byte) (h : decodeWchr sec bs ≠ .more) :
    decodeWchr sec (bs ++ ys) = (decodeWchr sec bs).followedBy ys := by
  cases bs with
  | nil => exact absurd rfl h
  | cons n bs =>
    cases hn : takePairs n.toNat bs with
    | none => simp [decodeWchr, hn] at h
    | some p =>
      simp only [decodeWchr, List.cons_append, hn, takePairs_append_of_some ys hn]
      split <;> rfl

theorem decodeWcell_append (sec : BitVec 4) (bs ys : List Byte) (h : decodeWcell sec bs ≠ .more) :
    decodeWcell sec (bs ++ ys) = (decodeWcell sec bs).followedBy ys := by
  match bs with
  | [] | [_] => exact absurd rfl h
  | _ :: _ :: _ => rfl

theorem decodeSdot_append (sec : BitVec 4) (bs ys : List Byte) (h : decodeSdot sec bs ≠ .more) :
    decodeSdot sec (bs ++ ys) = (decodeSdot sec bs).followedBy ys := by
  match bs with
  | [] | [_] => exact absurd rfl h
  | _ :: _ :: _ =>
    simp only [decodeSdot, List.cons_append]
    split <;> rfl

theorem decodeShow_append (sec : BitVec 4) (bs ys : List Byte) (h : decodeShow sec bs ≠ .more) :
    decodeShow sec (bs ++ ys) = (decodeShow sec bs).followedBy ys := by
  match bs with
  | [] | [_] | [_, _] | [_, _, _] => exact absurd rfl h
  | _ :: _ :: _ :: _ :: _ =>
    simp only [decodeShow, List.cons_append]
    split <;> rfl

theorem decodeBare_append (i : Instr) (sec : BitVec 4) (bs ys : List Byte) :
    decodeBare i sec (bs ++ ys) = (decodeBare i sec bs).followedBy ys := by
  simp only [decodeBare]
  split <;> rfl

/-- Bytes that follow a complete or a refused packet do not change what is read from it. -/
theorem decode_append (xs ys : List Byte) (h : decode xs ≠ .more) : decode (xs ++ ys) = (decode xs).followedBy ys := by
  cases xs with
  | nil => exact absurd rfl h
  | cons b bs =>
    simp only [decode, List.cons_append] at h ⊢
    split at h
    · exact decodeWsec_append _ _ _ h
    · exact decodeWcell_append _ _ _ h
    · exact decodeSdot_append _ _ _ h
    · exact decodeWchr_append _ _ _ h
    · exact decodeShow_append _ _ _ h
    · exact decodeBare_append _ _ _ _
    · exact decodeBare_append _ _ _ _
    · rfl

/-- The proper beginnings of a packet are incomplete. -/
theorem decode_prefix_more {xs ys : List Byte} {i : Instr} (h : decode (xs ++ ys) = .cmd i []) (hys : ys ≠ []) :
    decode xs = .more := by
  by_contra hmore
  rw [decode_append xs ys hmore] at h
  cases hd : decode xs <;> simp_all [Decoded.followedBy]

/-- The four bytes of a duration, put together again (30_encoding R73). -/
theorem word32_of_bytes (d : Word32) :
    d.extractLsb' 24 8 ++ d.extractLsb' 16 8 ++ d.extractLsb' 8 8 ++ d.extractLsb' 0 8 = d := by
  rw [BitVec.extractLsb'_append_extractLsb'_eq_extractLsb' (show 24 = 16 + 8 from rfl),
    BitVec.extractLsb'_append_extractLsb'_eq_extractLsb' (show 16 = 8 + 8 from rfl),
    BitVec.extractLsb'_append_extractLsb'_eq_extractLsb' (show 8 = 0 + 8 from rfl)]
  exact BitVec.extractLsb'_eq_self

/-- The packet of a well-formed command decodes to it, whatever follows. -/
theorem decode_encode (i : Instr) (rest : List Byte) (h : i.wellFormed = true) : decode (encode i ++ rest) = .cmd i rest := by
  cases i with
  | wsec sec codes =>
    have hlen : codes.length % 256 = codes.length := by simp [Instr.wellFormed] at h; omega
    simp [encode, decode, decodeWsec, hlen, takeBytes_append]
  | wcell sec idx code => simp [encode, decode, decodeWcell]
  | sdot sec idx on => simpa [encode, decode, decodeSdot] using flagByte_bit on
  | wchr sec chars =>
    have hlen : chars.length % 256 = chars.length := by simp [Instr.wellFormed] at h; omega
    simp [encode, decode, decodeWchr, hlen, takePairs_charBytes, Function.comp_def]
  | showFor dur => simp [encode, decode, decodeShow, word32_of_bytes]
  | update => simp [encode, decode, decodeBare]
  | clear => simp [encode, decode, decodeBare]

end Sys2Proof

namespace Sys2Proof.Machine

/-! ### Accepting bytes (10_state R29, 30_encoding R67, R68) -/

/-- The block accepts bytes for the command whose bytes so far are `got`: none in READY, those held while it waits for payload. -/
def State.Accepts (s : State) (got : List Byte) : Prop := (s.cp = .ready ∧ got = []) ∨ s.cp = .busy (.payload got)

theorem step_of_running {s : State} (h : Running s) : step s = run s := by
  obtain ⟨hreset, hin⟩ := h
  simp [step, stepWithReset, hreset, hin]

theorem run_of_accepts {s : State} {got : List Byte} (h : s.Accepts got) : run s = accept got s := by
  rcases h with ⟨hcp, rfl⟩ | hcp <;> simp [run, hcp]

/-- A write of the value that CP has changes nothing. -/
theorem State.setCp_self {s : State} {c : CP} (h : s.cp = c) : s.setCp c = s := by
  subst h
  rfl

theorem step_of_decode_cmd {s : State} {got rest : List Byte} {i : Instr} (hrun : Running s) (hacc : s.Accepts got)
    (hdec : decode (got ++ s.port) = .cmd i rest) : step s = exec i ((s.setPort rest).setCp .ready) := by
  rw [step_of_running hrun, run_of_accepts hacc]
  simp only [accept, hdec]

theorem step_of_decode_more {s : State} {got : List Byte} (hrun : Running s) (hacc : s.Accepts got)
    (hdec : decode (got ++ s.port) = .more) : step s = .next ((s.setPort []).setCp (waitingCp (got ++ s.port))) := by
  rw [step_of_running hrun, run_of_accepts hacc]
  simp only [accept, hdec]

/-- Settles O6: out of reset a step is what the port accepts; in READY the write of CP changes nothing. -/
theorem stepRunsTheDecodedCommand : Obligations.StepRunsTheDecodedCommand := by
  intro s i rest hrun
  refine ⟨fun hcp hdec => ?_, fun got hcp hdec => step_of_decode_cmd hrun (.inr hcp) hdec⟩
  have hready : (s.setPort rest).setCp .ready = s.setPort rest := State.setCp_self hcp
  rw [step_of_decode_cmd hrun (.inl ⟨hcp, rfl⟩) hdec, hready]

/-- Settles O7: the first part is a proper beginning of a packet, hence incomplete and held; with the second part it decodes to the
command. -/
theorem splitPacketRunsTheCommand : Obligations.SplitPacketRunsTheCommand := by
  intro s i xs ys hrun hwf henc hxs hys hcp hport
  have hcmd : decode (xs ++ ys) = .cmd i [] := by simpa [henc] using decode_encode i [] hwf
  have hmore : decode ([] ++ s.port) = .more := by simpa [hport] using decode_prefix_more hcmd hys
  have hwait : waitingCp ([] ++ s.port) = .busy (.payload xs) := by simp [waitingCp, hport, hxs]
  refine ⟨_, hwait ▸ step_of_decode_more hrun (.inl ⟨hcp, rfl⟩) hmore, rfl, ?_⟩
  exact step_of_decode_cmd (got := xs) hrun (.inr rfl) hcmd

/-! ### What a step out of reset can do -/

/-- The ways a command can go: a write command has written cells, if any; SHOW has begun a burst or a hold; UPDATE and CLEAR have sent a
frame, and UPDATE in MUX mode has done nothing, which is a write of no cell. -/
inductive ExecStep (s : State) : State → Prop
  | write (m : Memory)
      (hwf : Memory.wf s.blank s.cfg.dispLen s.cells = true → Memory.wf s.blank s.cfg.dispLen m = true) : ExecStep s (s.setCells m)
  | burst (dur : Word32) (hmode : s.cfg.driveMode = .mux) : ExecStep s (startBurst dur s)
  | hold (dur : Word32) (hmode : s.cfg.driveMode = .static) : ExecStep s (startHold dur s)
  | frame (bytes : List Byte) : ExecStep s (s.sendFrame bytes)

/-- The ways an output command in progress can go on (42_scanner R109, R110; 43_static R124). -/
inductive OutputStep (s : State) : State → Prop
  | finish (hcp : s.cp = .busy .guard) (hover : s.passOverruns s.now = true) : OutputStep s (endBurst s.afterNow)
  | pass (hcp : s.cp = .busy .guard) (hover : s.passOverruns s.now = false) :
      OutputStep s ((s.afterNow.setScanI 0).setCp (.busy .drive))
  | drive (bytes : List Byte) (hcp : s.cp = .busy .drive) (hframe : s.cellFrame s.scanI = .ok bytes) :
      OutputStep s ((s.sendFrame bytes).afterNow.setCp (.busy (.slice (s.sendFrame bytes).now)))
  | pollSlice (t0 : Word32) (hcp : s.cp = .busy (.slice t0)) (hearly : elapsed t0 s.now < s.cfg.tCellMs.toNat) :
      OutputStep s s.afterNow
  | nextCell (t0 : Word32) (hcp : s.cp = .busy (.slice t0)) (hpast : s.cfg.tCellMs.toNat ≤ elapsed t0 s.now)
      (hcell : s.scanI + 1 < s.cfg.dispLen) : OutputStep s ((s.afterNow.setScanI (s.scanI + 1)).setCp (.busy .drive))
  | lastCell (t0 : Word32) (hcp : s.cp = .busy (.slice t0)) (hpast : s.cfg.tCellMs.toNat ≤ elapsed t0 s.now)
      (hcell : s.cfg.dispLen ≤ s.scanI + 1) : OutputStep s (s.afterNow.setCp (.busy .guard))
  | pollHold (t0 dur : Word32) (hcp : s.cp = .busy (.hold t0 dur)) (hearly : elapsed t0 s.now < dur.toNat) : OutputStep s s.afterNow
  | clear (t0 dur : Word32) (hcp : s.cp = .busy (.hold t0 dur)) (hpast : dur.toNat ≤ elapsed t0 s.now) :
      OutputStep s ((s.afterNow.sendFrame s.clearFrameStatic).setCp .ready)

/-- The ways a step out of reset can go: a command executed, an incomplete packet held, or the output command in progress. -/
inductive RunStep (s : State) : State → Prop
  | exec {got rest : List Byte} {i : Instr} {t : State} (hacc : s.Accepts got) (hdec : decode (got ++ s.port) = .cmd i rest)
      (hexec : ExecStep ((s.setPort rest).setCp .ready) t) : RunStep s t
  | wait {got : List Byte} (hacc : s.Accepts got) (hdec : decode (got ++ s.port) = .more) :
      RunStep s ((s.setPort []).setCp (waitingCp (got ++ s.port)))
  | output {t : State} (hout : OutputStep s t) : RunStep s t

theorem ExecStep.noop (s : State) : ExecStep s s := .write s.cells id

theorem execStep_of_writeCell {s t : State} {a : Nat} {v : Byte} (h : writeCell a v s = .next t) : ExecStep s t := by
  obtain ⟨ha, rfl⟩ := writeCell_inv h
  exact .write _ (Memory.write_wf a v ha)

theorem execStep_of_writeRun {s t : State} {a : Nat} {vs : List Byte} (h : writeRun a vs s = .next t) : ExecStep s t := by
  obtain ⟨rfl | ha, rfl⟩ := writeRun_inv _ _ _ _ h
  · exact .noop s
  · exact .write _ (Memory.writeAll_wf vs ha)

/-- A command behind an address check is a noop where the check fails (41_buffer R93). -/
theorem execStep_of_check {s t : State} {ok : Bool} {o : Outcome} (ho : o = .next t → ExecStep s t)
    (h : (if ok = true then o else .next s) = .next t) : ExecStep s t := by
  split at h
  · exact ho h
  · cases h
    exact .noop s

/-- A command that completes or begins its output has gone one of these ways. -/
theorem execStep_of_exec {s t : State} {i : Instr} (h : exec i s = .next t) : ExecStep s t := by
  cases i with
  | wsec sec codes => exact execStep_of_check execStep_of_writeRun h
  | wcell sec idx code => exact execStep_of_check execStep_of_writeCell h
  | sdot sec idx on => exact execStep_of_check execStep_of_writeCell h
  | wchr sec chars => exact execStep_of_check execStep_of_writeRun h
  | showFor dur =>
    simp only [exec, execShow] at h
    split at h
    · next hmode => cases h; exact .burst dur hmode
    · next hmode => cases h; exact .hold dur hmode
  | update =>
    simp only [exec, execUpdate] at h
    split at h
    · cases h; exact .noop s
    · cases h; exact .frame _
  | clear =>
    simp only [exec, execClear] at h
    split at h
    · cases h; exact .frame _
    · cases h; exact .frame _

theorem outputStep_of_guardStep {s t : State} (hcp : s.cp = .busy .guard) (h : guardStep s = .next t) : OutputStep s t := by
  rcases guardStep_cases s with ⟨hover, hstep⟩ | ⟨hover, hstep⟩ <;> cases hstep.symm.trans h
  · exact .finish hcp hover
  · exact .pass hcp hover

theorem outputStep_of_driveStep {s t : State} (hcp : s.cp = .busy .drive) (h : driveStep s = .next t) : OutputStep s t := by
  obtain ⟨bytes, hframe, rfl⟩ := driveStep_inv h
  exact .drive bytes hcp hframe

theorem outputStep_of_sliceStep {s t : State} {t0 : Word32} (hcp : s.cp = .busy (.slice t0)) (h : sliceStep t0 s = .next t) :
    OutputStep s t := by
  rcases sliceStep_cases t0 s with ⟨hearly, hstep⟩ | ⟨hpast, hcell, hstep⟩ | ⟨hpast, hcell, hstep⟩ <;> cases hstep.symm.trans h
  · exact .pollSlice t0 hcp hearly
  · exact .nextCell t0 hcp hpast hcell
  · exact .lastCell t0 hcp hpast hcell

theorem outputStep_of_holdStep {s t : State} {t0 dur : Word32} (hcp : s.cp = .busy (.hold t0 dur)) (h : holdStep t0 dur s = .next t) :
    OutputStep s t := by
  rcases holdStep_cases t0 dur s with ⟨hearly, hstep⟩ | ⟨hpast, hstep⟩ <;> cases hstep.symm.trans h
  · exact .pollHold t0 dur hcp hearly
  · exact .clear t0 dur hcp hpast

theorem runStep_of_accept {s t : State} {got : List Byte} (hacc : s.Accepts got) (h : accept got s = .next t) : RunStep s t := by
  rcases accept_inv h with ⟨i, rest, hdec, hexec⟩ | ⟨hdec, rfl⟩
  · exact .exec hacc hdec (execStep_of_exec hexec)
  · exact .wait hacc hdec

/-- A step of a BUSY block with an output command in progress goes on with that command. -/
theorem outputStep_of_run {s t : State} (hbusy : OutputBusy s) (h : run s = .next t) : OutputStep s t := by
  obtain ⟨a, hcp, hout⟩ := hbusy
  simp only [run, hcp] at h
  cases a with
  | payload got => exact absurd rfl (hout got)
  | guard => exact outputStep_of_guardStep hcp h
  | drive => exact outputStep_of_driveStep hcp h
  | slice t0 => exact outputStep_of_sliceStep hcp h
  | hold t0 dur => exact outputStep_of_holdStep hcp h

/-- The block accepts bytes or an output command is in progress (10_state R29). -/
theorem accepts_or_outputBusy (s : State) : (∃ got, s.Accepts got) ∨ OutputBusy s := by
  rcases hcp : s.cp with _ | a
  · exact .inl ⟨[], .inl ⟨hcp, rfl⟩⟩
  · by_cases hp : ∃ got, a = .payload got
    · obtain ⟨got, rfl⟩ := hp
      exact .inl ⟨got, .inr hcp⟩
    · exact .inr ⟨a, hcp, not_exists.mp hp⟩

/-- A step out of reset that completes has gone one of these ways. -/
theorem runStep_of_run {s t : State} (h : run s = .next t) : RunStep s t := by
  rcases accepts_or_outputBusy s with ⟨got, hacc⟩ | hbusy
  · exact runStep_of_accept hacc (run_of_accepts hacc ▸ h)
  · exact .output (outputStep_of_run hbusy h)

/-! ### What every step out of reset keeps (10_state R15, R23, R24, R34, R35) -/

/-- From `s` to `t` the configuration, the ROM and the reset state stay, the trace only grows, and time does not run backwards. -/
structure Keeps (s t : State) : Prop where
  cfg : t.cfg = s.cfg
  glyph : t.glyph = s.glyph
  cfgIn : t.cfgIn = s.cfgIn
  inReset : t.inReset = s.inReset
  trace : s.trace <+: t.trace
  clock : s.clock ≤ t.clock

theorem State.clock_le_nextClock (s : State) : s.clock ≤ s.nextClock := Nat.le_add_right _ _

@[simp] theorem State.sendFrame_nextClock (s : State) (bs : List Byte) : (s.sendFrame bs).nextClock = s.nextClock := rfl

theorem ExecStep.keeps {s t : State} (h : ExecStep s t) : Keeps s t := by
  cases h with
  | write m _ => exact ⟨rfl, rfl, rfl, rfl, List.prefix_rfl, le_rfl⟩
  | burst dur _ => constructor <;> simp [State.clock_le_nextClock]
  | hold dur _ => constructor <;> simp [State.clock_le_nextClock]
  | frame bytes => constructor <;> simp

theorem OutputStep.keeps {s t : State} (h : OutputStep s t) : Keeps s t := by
  cases h <;> constructor <;> simp [State.clock_le_nextClock]

theorem RunStep.keeps {s t : State} (h : RunStep s t) : Keeps s t := by
  cases h with
  | exec _ _ hexec =>
    obtain ⟨hcfg, hglyph, hcfgIn, hin, htrace, hclock⟩ := hexec.keeps
    exact ⟨hcfg, hglyph, hcfgIn, hin, htrace, hclock⟩
  | wait _ _ => exact ⟨rfl, rfl, rfl, rfl, List.prefix_rfl, le_rfl⟩
  | output hout => exact hout.keeps

theorem Keeps.blank {s t : State} (h : Keeps s t) : t.blank = s.blank := by simp only [State.blank, h.cfg]

/-- Settles O41: none of the ways a step out of reset can go writes them. -/
theorem configurationIsReadOnly : Obligations.ConfigurationIsReadOnly := by
  intro s t hrun h
  have hk := (runStep_of_run (step_of_running hrun ▸ h)).keeps
  exact ⟨hk.cfg, hk.glyph, hk.cfgIn⟩

/-- An output command in progress leaves the port and the cell buffer alone. -/
theorem OutputStep.port_cells {s t : State} (h : OutputStep s t) : t.port = s.port ∧ t.cells = s.cells := by
  cases h <;> simp

/-- CMD_READY is low while an output command is in progress. -/
theorem cmdReady_of_outputBusy {s : State} (h : OutputBusy s) : s.cmdReady = false := by
  obtain ⟨a, hcp, hout⟩ := h
  rw [Bool.eq_false_iff, ne_eq, cmdReady_iff]
  rintro ⟨-, -, hready | ⟨got, hgot⟩⟩
  · simp [hcp] at hready
  · exact hout got (by simpa [hcp] using hgot)

/-- Settles O9: such a step goes on with the output command, and none of the ways it can go takes a byte or writes a cell. -/
theorem busyBlockAcceptsNothing : Obligations.BusyBlockAcceptsNothing := by
  intro s t hrun hbusy h
  have hstep := outputStep_of_run hbusy (step_of_running hrun ▸ h)
  obtain ⟨hport, hcells⟩ := hstep.port_cells
  exact ⟨hport, hcells, hstep.keeps.cfg, hstep.keeps.glyph, cmdReady_of_outputBusy hbusy⟩

/-! ### The invariant (10_state R20, R29 to R31, R37) -/

section
variable {s : State}

theorem cpOk_ready (hcp : s.cp = .ready) : s.cpOk = true ↔ s.drv = .idle := by simp [State.cpOk, hcp]

theorem cpOk_payload {got : List Byte} (hcp : s.cp = .busy (.payload got)) :
    s.cpOk = true ↔ s.drv = .idle ∧ decode got = .more ∧ got ≠ [] ∧ s.inReset = false := by simp [State.cpOk, hcp, and_assoc]

theorem cpOk_guard (hcp : s.cp = .busy .guard) :
    s.cpOk = true ↔ s.drv = .scanning ∧ s.cfg.driveMode = .mux ∧ s.inReset = false := by simp [State.cpOk, hcp, and_assoc]

theorem cpOk_drive (hcp : s.cp = .busy .drive) :
    s.cpOk = true ↔ s.drv = .scanning ∧ s.cfg.driveMode = .mux ∧ s.scanI < s.cfg.dispLen ∧ s.inReset = false := by
  simp [State.cpOk, hcp, and_assoc]

theorem cpOk_slice {t0 : Word32} (hcp : s.cp = .busy (.slice t0)) :
    s.cpOk = true ↔ s.drv = .scanning ∧ s.cfg.driveMode = .mux ∧ s.scanI < s.cfg.dispLen ∧ s.inReset = false := by
  simp [State.cpOk, hcp, and_assoc]

theorem cpOk_hold {t0 dur : Word32} (hcp : s.cp = .busy (.hold t0 dur)) :
    s.cpOk = true ↔ s.drv = .idle ∧ s.cfg.driveMode = .static ∧ s.inReset = false := by simp [State.cpOk, hcp, and_assoc]

/-- DRV is IDLE whenever bytes are accepted. -/
theorem drv_of_accepts {got : List Byte} (hok : s.cpOk = true) (hacc : s.Accepts got) : s.drv = .idle := by
  rcases hacc with ⟨hcp, -⟩ | hcp
  · exact (cpOk_ready hcp).mp hok
  · exact ((cpOk_payload hcp).mp hok).1

/-- Consistent registers have at least one cell. -/
theorem dispLen_pos (h : registersOk s.cfg = true) : 0 < s.cfg.dispLen := by
  obtain ⟨hone, -⟩ := registersOk_iff.mp h
  have := section_inside h (List.getElem?_eq_getElem hone)
  omega

end

theorem ExecStep.cpOk {s t : State} (h : ExecStep s t) (hcp : s.cp = .ready) (hdrv : s.drv = .idle) (hin : s.inReset = false) :
    t.cpOk = true := by
  cases h with
  | write m _ => exact (cpOk_ready hcp).mpr hdrv
  | burst dur hmode => exact (cpOk_guard (startBurst_cp s dur)).mpr ⟨by simp, by simpa using hmode, by simpa using hin⟩
  | hold dur hmode => exact (cpOk_hold (startHold_cp s dur)).mpr ⟨hdrv, hmode, hin⟩
  | frame bytes => exact (cpOk_ready hcp).mpr hdrv

theorem OutputStep.cpOk {s t : State} (h : OutputStep s t) (hregs : registersOk s.cfg = true) (hok : s.cpOk = true) :
    t.cpOk = true := by
  cases h with
  | finish hcp _ => exact (cpOk_ready rfl).mpr rfl
  | pass hcp _ =>
    obtain ⟨hdrv, hmode, hin⟩ := (cpOk_guard hcp).mp hok
    exact (cpOk_drive rfl).mpr ⟨hdrv, hmode, dispLen_pos hregs, hin⟩
  | drive bytes hcp _ =>
    obtain ⟨hdrv, hmode, hi, hin⟩ := (cpOk_drive hcp).mp hok
    exact (cpOk_slice rfl).mpr ⟨hdrv, hmode, hi, hin⟩
  | pollSlice t0 hcp _ => exact hok
  | nextCell t0 hcp _ hcell =>
    obtain ⟨hdrv, hmode, -, hin⟩ := (cpOk_slice hcp).mp hok
    exact (cpOk_drive rfl).mpr ⟨hdrv, hmode, hcell, hin⟩
  | lastCell t0 hcp _ _ =>
    obtain ⟨hdrv, hmode, -, hin⟩ := (cpOk_slice hcp).mp hok
    exact (cpOk_guard rfl).mpr ⟨hdrv, hmode, hin⟩
  | pollHold t0 dur hcp _ => exact hok
  | clear t0 dur hcp _ =>
    obtain ⟨hdrv, -⟩ := (cpOk_hold hcp).mp hok
    exact (cpOk_ready rfl).mpr hdrv

/-- An incomplete packet leaves CP waiting for its payload, or READY if there is no byte of it. -/
theorem waitingCp_cpOk {s : State} {got : List Byte} (hcp : s.cp = waitingCp got) (hdec : decode got = .more) (hdrv : s.drv = .idle)
    (hin : s.inReset = false) : s.cpOk = true := by
  cases got with
  | nil => exact (cpOk_ready hcp).mpr hdrv
  | cons b bs => exact (cpOk_payload hcp).mpr ⟨hdrv, hdec, List.cons_ne_nil b bs, hin⟩

theorem RunStep.cpOk {s t : State} (h : RunStep s t) (hs : s.Inv) (hin : s.inReset = false) : t.cpOk = true := by
  obtain ⟨hregs, -, -, hok⟩ := hs
  cases h with
  | exec hacc _ hexec =>
    have hdrv := drv_of_accepts hok hacc
    exact hexec.cpOk rfl hdrv hin
  | wait hacc hdec =>
    have hdrv := drv_of_accepts hok hacc
    exact waitingCp_cpOk rfl hdec hdrv hin
  | output hout => exact hout.cpOk hregs hok

theorem ExecStep.cells_wf {s t : State} (h : ExecStep s t) (hwf : Memory.wf s.blank s.cfg.dispLen s.cells = true) :
    Memory.wf s.blank s.cfg.dispLen t.cells = true := by
  cases h with
  | write m hm => exact hm hwf
  | burst dur _ => simpa using hwf
  | hold dur _ => exact hwf
  | frame bytes => exact hwf

theorem RunStep.cells_wf {s t : State} (h : RunStep s t) (hwf : Memory.wf s.blank s.cfg.dispLen s.cells = true) :
    Memory.wf s.blank s.cfg.dispLen t.cells = true := by
  cases h with
  | exec _ _ hexec => exact hexec.cells_wf hwf
  | wait _ _ => exact hwf
  | output hout => exact hout.port_cells.2 ▸ hwf

/-- A step out of reset keeps the invariant. -/
theorem run_keeps_inv {s t : State} (hs : s.Inv) (hin : s.inReset = false) (h : run s = .next t) : t.Inv := by
  have hstep := runStep_of_run h
  have hcp := hstep.cpOk hs hin
  obtain ⟨hregs, hglyph, hwf, -⟩ := hs
  refine ⟨hstep.keeps.cfg ▸ hregs, hstep.keeps.glyph ▸ hglyph, ?_, hcp⟩
  rw [hstep.keeps.blank, hstep.keeps.cfg]
  exact hstep.cells_wf hwf

/-- Reset asserted keeps the invariant: CP is READY and DRV is IDLE. -/
theorem enterReset_keeps_inv {s : State} (h : s.Inv) : s.enterReset.Inv := by
  obtain ⟨hregs, hglyph, hwf, -⟩ := h
  exact ⟨hregs, hglyph, hwf, (cpOk_ready rfl).mpr rfl⟩

/-- A cut step differs from the whole step in its trace and its time input only, which the invariant does not look at. -/
theorem cutStep_keeps_inv {s t : State} (n : Nat) (h : t.Inv) : (cutStep n s t).Inv := by
  rcases cutStep_cases n s t with ⟨-, hcut⟩ | ⟨-, hcut⟩ <;> rw [hcut] <;> exact h

/-- Reset release with a valid configuration establishes the invariant. -/
theorem boot_meets_inv {s : State} (h : configValid s.cfgIn s.glyph = true) : s.boot.Inv := everyValidResetMeetsTheInvariant _ _ h

/-- Settles O38: by what a step is, reset steps too; out of reset by the ways a step can go. -/
theorem everyStepKeepsTheInvariant : Obligations.EveryStepKeepsTheInvariant := by
  intro s t hs h
  rcases step_cases s with ⟨-, -, hstep⟩ | ⟨k, -, hin, hstep⟩ | ⟨-, -, hstep⟩ | ⟨-, hin, hstep⟩ <;> rw [hstep] at h
  · cases h
    exact hs
  · rcases assertReset_inv h with ⟨-, rfl⟩ | ⟨k, u, -, hrun, rfl⟩
    · exact enterReset_keeps_inv hs
    · exact enterReset_keeps_inv (cutStep_keeps_inv _ (run_keeps_inv hs hin hrun))
  · obtain ⟨hvalid, rfl⟩ := releaseReset_inv h
    exact boot_meets_inv hvalid
  · exact run_keeps_inv hs hin h

/-- Settles O36: the configuration of log entry 1 is a valid one. -/
theorem resetStateMeetsTheInvariant : Obligations.ResetStateMeetsTheInvariant :=
  everyValidResetMeetsTheInvariant _ _ (by decide +kernel)

/-! ### The trace and the time (10_state R34, R35) -/

theorem cutStep_clock_le {n : Nat} {s t : State} (h : s.clock ≤ t.clock) : s.clock ≤ (cutStep n s t).clock := by
  rcases cutStep_cases n s t with ⟨-, hcut⟩ | ⟨-, hcut⟩ <;> rw [hcut]
  · exact h
  · exact le_rfl

theorem step_trace_prefix {s t : State} (h : step s = .next t) : s.trace <+: t.trace := by
  rcases step_cases s with ⟨-, -, hstep⟩ | ⟨k, -, -, hstep⟩ | ⟨-, -, hstep⟩ | ⟨-, -, hstep⟩ <;> rw [hstep] at h
  · cases h
    exact List.prefix_rfl
  · rcases assertReset_inv h with ⟨-, rfl⟩ | ⟨k, u, -, -, rfl⟩ <;> simp
  · obtain ⟨-, rfl⟩ := releaseReset_inv h
    exact List.prefix_rfl
  · exact (runStep_of_run h).keeps.trace

theorem step_clock_le {s t : State} (h : step s = .next t) : s.clock ≤ t.clock := by
  rcases step_cases s with ⟨-, -, hstep⟩ | ⟨k, -, -, hstep⟩ | ⟨-, -, hstep⟩ | ⟨-, -, hstep⟩ <;> rw [hstep] at h
  · cases h
    exact le_rfl
  · rcases assertReset_inv h with ⟨-, rfl⟩ | ⟨k, u, -, hrun, rfl⟩
    · rw [State.enterReset_clock]
    · rw [State.enterReset_clock]
      exact cutStep_clock_le (runStep_of_run hrun).keeps.clock
  · obtain ⟨-, rfl⟩ := releaseReset_inv h
    rw [State.boot_clock]
  · exact (runStep_of_run h).keeps.clock

/-- Settles O44: a reset step adds at most part of a step's events and the reset mark; the others grow the trace by the ways they can go. -/
theorem traceGrowsAndTimeAdvances : Obligations.TraceGrowsAndTimeAdvances := by
  intro s t h
  obtain ⟨es, hes⟩ := step_trace_prefix h
  exact ⟨⟨es, hes.symm⟩, step_clock_le h⟩

/-! ### The external chain (10_state R33, 70_reset R165) -/

/-- The shift stages hold something that nothing determines. -/
def ChainView.undetermined (v : ChainView) : Bool := v.mixed || !v.pending.isEmpty

/-- An event that sends nothing leaves the frames as they are, and the shift stages as determined as they were. -/
theorem chainEvent_of_outputs_nil {e : Event} (h : outputs [e] = []) (v : ChainView) :
    (chainEvent v e).frames = v.frames ∧ (chainEvent v e).undetermined = v.undetermined := by
  cases e with
  | emit b order => cases h
  | latch => cases h
  | now t => exact ⟨rfl, rfl⟩
  | reset => simp [chainEvent, ChainView.undetermined]

theorem foldl_chainEvent_of_outputs_nil (es : List Event) (h : outputs es = []) : ∀ v : ChainView,
    (es.foldl chainEvent v).frames = v.frames ∧ (es.foldl chainEvent v).undetermined = v.undetermined := by
  induction es with
  | nil => exact fun _ => ⟨rfl, rfl⟩
  | cons e es ih =>
    intro v
    obtain ⟨he, hes⟩ := List.append_eq_nil_iff.mp (outputs_append [e] es ▸ h : outputs [e] ++ outputs es = [])
    obtain ⟨hframes, hmixed⟩ := chainEvent_of_outputs_nil he v
    obtain ⟨hframes', hmixed'⟩ := ih hes (chainEvent v e)
    exact ⟨hframes'.trans hframes, hmixed'.trans hmixed⟩

/-- Settles O59: the events that the step adds to the trace send nothing, and outputs and shift stages are functions of the trace. -/
theorem chainChangesOnlyWhenSent : Obligations.ChainChangesOnlyWhenSent := by
  intro s t h hout
  obtain ⟨es, hes⟩ := step_trace_prefix h
  have hnil : outputs es = [] := by simpa [← hes, outputs_append] using hout
  obtain ⟨hframes, hmixed⟩ := foldl_chainEvent_of_outputs_nil es hnil (chainView s.trace)
  rw [← chainView_append, hes] at hframes hmixed
  have hdisp : t.displayed = s.displayed := by simp only [State.displayed, framesOf, hframes]
  simp only [ChainView.undetermined] at hmixed
  exact ⟨hdisp, by simp only [State.shiftStages, hmixed, hout, hdisp]⟩

/-! ### Reset release (10_state R15, R18, R27, R36) -/

/-- Settles O31: a valid configuration is booted, and L is the derived sections' total. -/
theorem releaseLoadsTheConfiguration : Obligations.ReleaseLoadsTheConfiguration := by
  intro s hreset hin
  have hstep : step s = releaseReset s := by simp [step, stepWithReset, hreset, hin]
  refine ⟨fun hvalid => ?_, fun hvalid => by simp [hstep, releaseReset, hvalid]⟩
  have hlen : s.boot.cfg.dispLen = min s.cfgIn.secReq.sum s.cfgIn.maxCells := sectionsLength_deriveSections _ _ 0
  exact ⟨s.boot, by simp [hstep, releaseReset, hvalid], rfl, rfl, rfl, rfl, hlen, rfl, rfl, rfl, rfl, rfl, rfl, rfl, rfl, fun _ => rfl,
    rfl, rfl, rfl, rfl⟩

/-! ### The section table (10_state R18, R20) -/

theorem sectionsFrom_cons_iff {start : Nat} {r : Section} {secs : List Section} : sectionsFrom start (r :: secs) = true ↔
    r.start = start ∧ 1 ≤ r.len ∧ sectionsFrom (start + r.len) secs = true := by
  simp [sectionsFrom, and_assoc]

/-- No section is empty, so there are no more sections than cells. -/
theorem length_le_sectionsLength {secs : List Section} : ∀ {start : Nat}, sectionsFrom start secs = true →
    secs.length ≤ sectionsLength secs := by
  induction secs with
  | nil => simp
  | cons r secs ih =>
    intro start h
    obtain ⟨-, hlen, hrest⟩ := sectionsFrom_cons_iff.mp h
    have := ih hrest
    simp only [List.length_cons, sectionsLength_cons]
    omega

/-- Each section begins where the one before ends. -/
theorem sectionsFrom_consecutive {secs : List Section} : ∀ {start k : Nat} {r q : Section}, sectionsFrom start secs = true →
    secs[k]? = some r → secs[k + 1]? = some q → q.start = r.start + r.len := by
  induction secs with
  | nil => simp
  | cons x secs ih =>
    intro start k r q h hr hq
    obtain ⟨hstart, -, hrest⟩ := sectionsFrom_cons_iff.mp h
    cases k with
    | zero =>
      obtain rfl : x = r := by simpa using hr
      obtain ⟨y, secs, rfl⟩ := List.exists_cons_of_ne_nil (l := secs) (by rintro rfl; simp at hq)
      obtain rfl : y = q := by simpa using hq
      rw [(sectionsFrom_cons_iff.mp hrest).1, hstart]
    | succ k => exact ih hrest (by simpa using hr) (by simpa using hq)

/-- A later section begins where an earlier one has ended. -/
theorem sectionsFrom_ordered {secs : List Section} : ∀ {start j k : Nat} {r q : Section}, sectionsFrom start secs = true → j < k →
    secs[j]? = some r → secs[k]? = some q → r.start + r.len ≤ q.start := by
  induction secs with
  | nil => simp
  | cons x secs ih =>
    intro start j k r q h hjk hr hq
    obtain ⟨hstart, -, hrest⟩ := sectionsFrom_cons_iff.mp h
    obtain ⟨k, rfl⟩ := Nat.exists_eq_add_one_of_ne_zero (Nat.ne_zero_of_lt hjk)
    cases j with
    | zero =>
      obtain rfl : x = r := by simpa using hr
      have := sectionsFrom_bounds _ _ _ _ hrest (by simpa using hq)
      omega
    | succ j => exact ih hrest (Nat.lt_of_succ_lt_succ hjk) (by simpa using hr) (by simpa using hq)

/-- Two sections that share a cell are the same one. -/
theorem sectionsFrom_disjoint {secs : List Section} {start j k a : Nat} {r q : Section} (h : sectionsFrom start secs = true)
    (hr : secs[j]? = some r) (hq : secs[k]? = some q) (har : r.start ≤ a ∧ a < r.start + r.len)
    (haq : q.start ≤ a ∧ a < q.start + q.len) : j = k := by
  rcases lt_trichotomy j k with hjk | hjk | hjk
  · have := sectionsFrom_ordered h hjk hr hq
    omega
  · exact hjk
  · have := sectionsFrom_ordered h hjk hq hr
    omega

/-- The sections cover exactly the cells from the first one's start on. -/
theorem sectionsFrom_cover {secs : List Section} {a : Nat} : ∀ {start : Nat}, sectionsFrom start secs = true →
    ((start ≤ a ∧ a < start + sectionsLength secs) ↔ ∃ r ∈ secs, r.start ≤ a ∧ a < r.start + r.len) := by
  induction secs with
  | nil => simp
  | cons x secs ih =>
    intro start h
    obtain ⟨hstart, -, hrest⟩ := sectionsFrom_cons_iff.mp h
    rw [List.exists_mem_cons_iff, ← ih hrest, sectionsLength_cons]
    omega

/-- The last section ends where the table ends. -/
theorem sectionsFrom_getLast {secs : List Section} : ∀ {start : Nat} {r : Section}, sectionsFrom start secs = true →
    secs.getLast? = some r → r.start + r.len = start + sectionsLength secs := by
  induction secs with
  | nil => simp
  | cons x secs ih =>
    intro start r h hr
    obtain ⟨hstart, -, hrest⟩ := sectionsFrom_cons_iff.mp h
    rw [sectionsLength_cons]
    cases secs with
    | nil =>
      obtain rfl : x = r := by simpa using hr
      simp [hstart]
    | cons y secs =>
      have := ih hrest (by simpa using hr)
      omega

/-- No section is made that was not requested. -/
theorem length_deriveSections_le (cap : Nat) (req : List Nat) : ∀ start, (deriveSections cap start req).length ≤ req.length := by
  induction req with
  | nil => simp [deriveSections]
  | cons n req ih =>
    intro start
    by_cases h : start < cap
    · simpa [deriveSections_cons h] using ih _
    · simp [deriveSections_full (not_lt.mp h)]

/-- Each section has its requested length, cut at the cap. -/
theorem deriveSections_len {cap n : Nat} {r : Section} {req : List Nat} : ∀ {start k : Nat},
    (deriveSections cap start req)[k]? = some r → req[k]? = some n → r.len = min n (cap - r.start) := by
  induction req with
  | nil => simp
  | cons m req ih =>
    intro start k hr hn
    by_cases h : start < cap
    · rw [deriveSections_cons h] at hr
      cases k with
      | zero => simp_all [eq_comm]
      | succ k => exact ih (by simpa using hr) (by simpa using hn)
    · simp [deriveSections_full (not_lt.mp h)] at hr

/-- Settles O32: the derived sections are a table that follows on from cell 0, whose total is the requested one cut at the cap. -/
theorem derivedSectionsTileTheBuffer : Obligations.DerivedSectionsTileTheBuffer := by
  intro cap req hcap hreq hpos secs
  have hfrom : sectionsFrom 0 secs = true := sectionsFrom_deriveSections cap req hpos 0
  have htotal : sectionsLength secs = min req.sum cap := sectionsLength_deriveSections cap req 0
  have hle : sectionsLength secs ≤ cap := htotal ▸ min_le_right _ _
  have hone : 1 ≤ secs.length := one_le_length_deriveSections hcap (List.length_pos_iff.mpr hreq)
  refine ⟨hone, le_min (length_deriveSections_le cap req 0) ((length_le_sectionsLength hfrom).trans hle), ?_,
    fun k r q hr hq => sectionsFrom_consecutive hfrom hr hq, fun r hr => ?_, fun k n r hr hn => deriveSections_len hr hn,
    fun a => by simpa using sectionsFrom_cover (a := a) hfrom,
    fun j k a r q hr hq h1 h2 h3 h4 => sectionsFrom_disjoint hfrom hr hq ⟨h1, h2⟩ ⟨h3, h4⟩,
    fun r hr => by simpa using sectionsFrom_getLast hfrom hr, htotal, hle⟩
  · obtain ⟨r, rest, hsecs⟩ := List.exists_cons_of_length_pos hone
    rw [hsecs] at hfrom ⊢
    exact ⟨r, rfl, (sectionsFrom_cons_iff.mp hfrom).1⟩
  · obtain ⟨k, hk⟩ := List.mem_iff_getElem?.mp hr
    have := sectionsFrom_bounds _ _ _ _ hfrom hk
    omega

end Sys2Proof.Machine

namespace Sys2Proof.Machine

/-! ### Canonical lists with the same cells (20_memory R37) -/

/-- A canonical list lists no blank. -/
theorem Memory.ne_blank_of_mem {blank : Byte} {len : Nat} {e : Host.Cell} {m : Memory} :
    ∀ {lo : Nat}, Memory.wfFrom blank len lo m = true → e ∈ m → e.2 ≠ blank := by
  induction m with
  | nil => simp
  | cons x m ih =>
    intro lo h he
    simp only [Memory.wfFrom, Bool.and_eq_true, bne_iff_ne] at h
    obtain ⟨⟨-, hx⟩, hm⟩ := h
    rcases List.mem_cons.mp he with rfl | he
    · exact hx
    · exact ih hm he

/-- The indices of a canonical list strictly rise. -/
theorem Memory.pairwise_index_lt {blank : Byte} {len : Nat} {m : Memory} :
    ∀ {lo : Nat}, Memory.wfFrom blank len lo m = true → m.Pairwise (Prod.fst ⁻¹'o (· < ·)) := by
  induction m with
  | nil => simp
  | cons x m ih =>
    intro lo h
    simp only [Memory.wfFrom, Bool.and_eq_true] at h
    obtain ⟨-, hm⟩ := h
    exact List.pairwise_cons.mpr ⟨fun e he => (Memory.index_of_mem hm he).1, ih hm⟩

/-- The entries of a canonical list are its cells that do not read as the blank. -/
theorem Memory.mem_iff_read {blank : Byte} {len : Nat} {m : Memory} (h : Memory.wf blank len m = true) (e : Host.Cell) :
    e ∈ m ↔ Memory.read blank m e.1 = e.2 ∧ e.2 ≠ blank := by
  refine ⟨fun he => ⟨Memory.read_of_mem h he, Memory.ne_blank_of_mem h he⟩, fun ⟨hread, hne⟩ => ?_⟩
  rcases Memory.read_eq_blank_or_mem blank m e.1 with hblank | hmem
  · exact absurd (hread.symm.trans hblank) hne
  · rwa [hread] at hmem

/-- Settles O46: the reads give the entries of a canonical list, and its rising indices give their order. -/
theorem equalCellsAreEqualBuffers : Obligations.EqualCellsAreEqualBuffers := by
  intro blank len m n hm hn hread
  have hmem : ∀ e, e ∈ m ↔ e ∈ n := fun e => by rw [Memory.mem_iff_read hm, Memory.mem_iff_read hn, hread]
  exact (Memory.pairwise_index_lt hm).eq_of_mem_iff (Memory.pairwise_index_lt hn) hmem

end Sys2Proof.Machine

namespace Sys2Proof

/-! ### What decodes is a packet (30_encoding R69 to R74) -/

/-- A header with this OP is the header byte of its opcode and its own section field. -/
theorem header_of_opField {h : Byte} (op : BitVec 4) (hop : (opField h).toNat = op.toNat) : h = header op (secField h) := by
  rw [← BitVec.eq_of_toNat_eq hop, header_fields]

theorem decodeWsec_inv {sec : BitVec 4} {bs rest : List Byte} {i : Instr} (h : decodeWsec sec bs = .cmd i rest) :
    i.wellFormed = true ∧ header 1 sec :: bs = encode i ++ rest := by
  cases bs with
  | nil => cases h
  | cons n bs =>
    simp only [decodeWsec] at h
    split at h
    · next codes rest' htake =>
      obtain ⟨rfl, hlen⟩ := takeBytes_split _ _ _ _ htake
      cases h
      exact ⟨by simp [Instr.wellFormed, hlen]; omega, by simp [encode, hlen]⟩
    · cases h

theorem decodeWcell_inv {sec : BitVec 4} {bs rest : List Byte} {i : Instr} (h : decodeWcell sec bs = .cmd i rest) :
    i.wellFormed = true ∧ header 2 sec :: bs = encode i ++ rest := by
  match bs with
  | [] | [_] => cases h
  | idx :: code :: bs => cases h; exact ⟨rfl, rfl⟩

theorem decodeSdot_inv {sec : BitVec 4} {bs rest : List Byte} {i : Instr} (h : decodeSdot sec bs = .cmd i rest) :
    i.wellFormed = true ∧ header 3 sec :: bs = encode i ++ rest := by
  match bs with
  | [] | [_] => cases h
  | idx :: f :: bs =>
    simp only [decodeSdot] at h
    split at h
    · next hflag => cases h; exact ⟨rfl, by rw [encode, flagByte_of_flagOk f hflag]; rfl⟩
    · cases h

/-- The (CH, FL) pairs that pass the reserved-field check are the payload of the positions they spell. -/
theorem flatMap_charBytes_map_charCell (ps : List (Byte × Byte)) (h : ∀ p ∈ ps, flagOk p.2 = true) :
    (ps.map charCell).flatMap charBytes = ps.flatMap (fun p => [p.1, p.2]) := by
  rw [List.flatMap_map]
  exact List.flatMap_congr fun p hp => by simp only [charBytes, charCell, flagByte_of_flagOk _ (h p hp)]

theorem decodeWchr_inv {sec : BitVec 4} {bs rest : List Byte} {i : Instr} (h : decodeWchr sec bs = .cmd i rest) :
    i.wellFormed = true ∧ header 4 sec :: bs = encode i ++ rest := by
  cases bs with
  | nil => cases h
  | cons n bs =>
    simp only [decodeWchr] at h
    split at h
    · next ps rest' htake =>
      obtain ⟨rfl, hlen⟩ := takePairs_split _ _ _ _ htake
      split at h
      · next hflags =>
        have hpay := flatMap_charBytes_map_charCell ps (List.all_eq_true.mp hflags)
        cases h
        exact ⟨by simp [Instr.wellFormed, hlen]; omega, by simp [encode, hlen, hpay]⟩
      · cases h
    · cases h

/-- A duration put together from four bytes has these bytes (30_encoding R73). -/
theorem bytes_of_word32 (d0 d1 d2 d3 : Byte) :
    (d3 ++ d2 ++ d1 ++ d0 : Word32).extractLsb' 0 8 = d0 ∧ (d3 ++ d2 ++ d1 ++ d0 : Word32).extractLsb' 8 8 = d1 ∧
    (d3 ++ d2 ++ d1 ++ d0 : Word32).extractLsb' 16 8 = d2 ∧ (d3 ++ d2 ++ d1 ++ d0 : Word32).extractLsb' 24 8 = d3 := by
  refine ⟨?_, ?_, ?_, ?_⟩
  all_goals
    simp (disch := omega) only [BitVec.extractLsb'_append_eq_of_le, BitVec.extractLsb'_append_eq_of_add_le]
    exact BitVec.extractLsb'_eq_self

theorem decodeShow_inv {sec : BitVec 4} {bs rest : List Byte} {i : Instr} (h : decodeShow sec bs = .cmd i rest) :
    i.wellFormed = true ∧ header 8 sec :: bs = encode i ++ rest := by
  match bs with
  | [] | [_] | [_, _] | [_, _, _] => cases h
  | d0 :: d1 :: d2 :: d3 :: bs =>
    obtain ⟨h0, h1, h2, h3⟩ := bytes_of_word32 d0 d1 d2 d3
    simp only [decodeShow] at h
    split at h
    · next hsec =>
      obtain rfl := eq_of_beq hsec
      cases h
      exact ⟨rfl, by simp only [encode, h0, h1, h2, h3, List.cons_append, List.nil_append]⟩
    · cases h

theorem decodeBare_inv {i j : Instr} {sec : BitVec 4} {bs rest : List Byte} (h : decodeBare j sec bs = .cmd i rest) :
    sec = 0 ∧ i = j ∧ rest = bs := by
  simp only [decodeBare] at h
  split at h
  · next hsec => cases h; exact ⟨eq_of_beq hsec, rfl, rfl⟩
  · cases h

/-- Bytes that decode to a command are its packet, then what is left over. -/
theorem encode_of_decode {bs rest : List Byte} {i : Instr} (h : decode bs = .cmd i rest) :
    i.wellFormed = true ∧ bs = encode i ++ rest := by
  cases bs with
  | nil => cases h
  | cons b bs =>
    simp only [decode] at h
    split at h
    · next hop => exact header_of_opField 1 hop ▸ decodeWsec_inv h
    · next hop => exact header_of_opField 2 hop ▸ decodeWcell_inv h
    · next hop => exact header_of_opField 3 hop ▸ decodeSdot_inv h
    · next hop => exact header_of_opField 4 hop ▸ decodeWchr_inv h
    · next hop => exact header_of_opField 8 hop ▸ decodeShow_inv h
    · next hop =>
      obtain ⟨hsec, rfl, rfl⟩ := decodeBare_inv h
      exact ⟨rfl, by rw [header_of_opField 9 hop, hsec]; rfl⟩
    · next hop =>
      obtain ⟨hsec, rfl, rfl⟩ := decodeBare_inv h
      exact ⟨rfl, by rw [header_of_opField 10 hop, hsec]; rfl⟩
    · cases h

/-- Settles O1: each decoder of a command reads back what the encoder wrote, and takes no more. -/
theorem decodeOfEncodeIsTheCommand : Obligations.DecodeOfEncodeIsTheCommand := decode_encode

/-- Settles O2: by opcode, each decoder takes exactly the bytes the encoder would write. -/
theorem encodeOfDecodeIsThePacket : Obligations.EncodeOfDecodeIsThePacket := fun _ _ _ => encode_of_decode

end Sys2Proof

namespace Sys2Proof

/-! ### Reserved encodings (30_encoding R76, R77) -/

theorem decode_of_reserved_op {h : Byte} (bs : List Byte)
    (hop : opField h = 0 ∨ (5 ≤ (opField h).toNat ∧ (opField h).toNat ≤ 7) ∨ 11 ≤ (opField h).toNat) :
    decode (h :: bs) = .reservedOpcode := by
  have hnat : (opField h).toNat = 0 ∨ (5 ≤ (opField h).toNat ∧ (opField h).toNat ≤ 7) ∨ 11 ≤ (opField h).toNat :=
    hop.imp_left (congrArg BitVec.toNat)
  simp only [decode]
  split
  case h_8 => rfl
  all_goals omega

/-- SHOW, UPDATE and CLEAR have no section: a nonzero header[3:0] is refused once the payload is there. -/
theorem decode_of_reserved_sec {op sec : BitVec 4} {payload : List Byte} (rest : List Byte) (hsec : sec ≠ 0)
    (hop : (op = 8 ∧ payload.length = 4) ∨ ((op = 9 ∨ op = 10) ∧ payload = [])) :
    decode (header op sec :: (payload ++ rest)) = .reservedField := by
  rcases hop with ⟨rfl, hlen⟩ | ⟨rfl | rfl, rfl⟩
  · obtain ⟨d0, d1, d2, d3, rfl⟩ := List.length_eq_four.mp hlen
    simpa [decode, decodeShow] using hsec
  · simpa [decode, decodeBare] using hsec
  · simpa [decode, decodeBare] using hsec

theorem flagOk_eq_false_iff (f : Byte) : flagOk f = false ↔ f.extractLsb' 1 7 ≠ 0 := by simp [flagOk]

theorem decode_sdot_of_reserved_flag {sec : BitVec 4} {idx f : Byte} (rest : List Byte) (hf : flagOk f = false) :
    decode (header 3 sec :: idx :: f :: rest) = .reservedField := by simp [decode, decodeSdot, hf]

theorem takePairs_append (ps : List (Byte × Byte)) (rest : List Byte) :
    takePairs ps.length (ps.flatMap (fun p => [p.1, p.2]) ++ rest) = some (ps, rest) := by
  induction ps with
  | nil => rfl
  | cons p ps ih => simp [takePairs, ih]

/-- One nonzero FLj[7:1] spoils the whole window. -/
theorem decode_wchr_of_reserved_flag {sec : BitVec 4} {ps : List (Byte × Byte)} (rest : List Byte) (hlen : ps.length ≤ 255)
    (hf : ∃ p ∈ ps, flagOk p.2 = false) :
    decode (header 4 sec :: BitVec.ofNat 8 ps.length :: (ps.flatMap (fun p => [p.1, p.2]) ++ rest)) = .reservedField := by
  have hcount : (BitVec.ofNat 8 ps.length).toNat = ps.length := Nat.mod_eq_of_lt (by omega)
  have hall : (ps.all fun p => flagOk p.2) = false := List.all_eq_false.mpr (by simpa using hf)
  simp [decode, decodeWchr, -BitVec.toNat_ofNat, hcount, takePairs_append, hall]

end Sys2Proof

namespace Sys2Proof.Machine

theorem step_of_decode_reservedOpcode {s : State} {got : List Byte} (hrun : Running s) (hacc : s.Accepts got)
    (hdec : decode (got ++ s.port) = .reservedOpcode) : step s = .refused .reservedOpcode := by
  rw [step_of_running hrun, run_of_accepts hacc]
  simp only [accept, hdec]

theorem step_of_decode_reservedField {s : State} {got : List Byte} (hrun : Running s) (hacc : s.Accepts got)
    (hdec : decode (got ++ s.port) = .reservedField) : step s = .refused .reservedField := by
  rw [step_of_running hrun, run_of_accepts hacc]
  simp only [accept, hdec]

/-- Settles O4: the decoder refuses the header, so the step that would accept it is refused. -/
theorem reservedOpcodeIsRefused : Obligations.ReservedOpcodeIsRefused := by
  intro s h bs hrun hcp hport hop
  exact step_of_decode_reservedOpcode hrun (.inl ⟨hcp, rfl⟩) (hport ▸ decode_of_reserved_op bs hop)

/-- Settles O5: each of the three packets decodes to a reserved field, which the step refuses. -/
theorem reservedFieldIsRefused : Obligations.ReservedFieldIsRefused := by
  intro s rest hrun hcp
  have refuse {bs : List Byte} (hport : s.port = bs) (hdec : decode bs = .reservedField) : step s = .refused .reservedField :=
    step_of_decode_reservedField hrun (.inl ⟨hcp, rfl⟩) (hport ▸ hdec)
  refine ⟨fun op sec payload hport hsec hop => refuse hport (decode_of_reserved_sec rest hsec hop),
    fun sec idx on hport hflag => ?_, fun sec ps hlen hport hflags => ?_⟩
  · exact refuse hport (decode_sdot_of_reserved_flag rest ((flagOk_eq_false_iff on).mpr hflag))
  · exact refuse hport (decode_wchr_of_reserved_flag rest hlen (by simpa only [flagOk_eq_false_iff] using hflags))

/-! ### What a step puts on the trace (30_encoding R80, R81) -/

/-- Events that are whole frames, each emitted in the bit order `order`, and reads of Now(). -/
inductive FramesAndReads (order : BitOrder) : List Event → Prop
  | nil : FramesAndReads order []
  | read (t : Word32) : FramesAndReads order [.now t]
  | frame (bytes : List Byte) : FramesAndReads order (frameEvents order bytes)
  | append {es fs : List Event} (hes : FramesAndReads order es) (hfs : FramesAndReads order fs) : FramesAndReads order (es ++ fs)

/-- From `s` to `t` the trace grows by whole frames in the configured bit order and by reads. -/
def AddsFramesAndReads (s t : State) : Prop := ∃ es, t.trace = s.trace ++ es ∧ FramesAndReads s.cfg.bitOrder es

theorem addsFramesAndReads_of_trace_eq {s t : State} (h : t.trace = s.trace) : AddsFramesAndReads s t := ⟨[], by simp [h], .nil⟩

theorem ExecStep.addsFramesAndReads {s t : State} (h : ExecStep s t) : AddsFramesAndReads s t := by
  cases h with
  | write m _ => exact addsFramesAndReads_of_trace_eq rfl
  | burst dur _ =>
    refine ⟨_, by rw [startBurst_trace, List.append_assoc], .append (.read _) ?_⟩
    split
    · exact .frame _
    · exact .nil
  | hold dur _ => exact ⟨_, by rw [startHold_trace, List.append_assoc], .append (.frame _) (.read _)⟩
  | frame bytes => exact ⟨_, rfl, .frame bytes⟩

theorem OutputStep.addsFramesAndReads {s t : State} (h : OutputStep s t) : AddsFramesAndReads s t := by
  cases h with
  | finish _ _ => exact ⟨_, List.append_assoc .., .append (.read _) (.frame _)⟩
  | pass _ _ => exact ⟨_, rfl, .read _⟩
  | drive bytes _ _ => exact ⟨_, List.append_assoc .., .append (.frame bytes) (.read _)⟩
  | pollSlice _ _ _ => exact ⟨_, rfl, .read _⟩
  | nextCell _ _ _ _ => exact ⟨_, rfl, .read _⟩
  | lastCell _ _ _ _ => exact ⟨_, rfl, .read _⟩
  | pollHold _ _ _ _ => exact ⟨_, rfl, .read _⟩
  | clear _ _ _ _ => exact ⟨_, List.append_assoc .., .append (.read _) (.frame _)⟩

theorem RunStep.addsFramesAndReads {s t : State} (h : RunStep s t) : AddsFramesAndReads s t := by
  cases h with
  | exec _ _ hexec => exact hexec.addsFramesAndReads
  | wait _ _ => exact addsFramesAndReads_of_trace_eq rfl
  | output hout => exact hout.addsFramesAndReads

theorem order_of_emit_mem_frameEvents {order o : BitOrder} {bytes : List Byte} {b : Byte}
    (h : Event.emit b o ∈ frameEvents order bytes) : o = order := by
  simp only [frameEvents, List.mem_append, List.mem_map, List.mem_singleton, Event.emit.injEq, reduceCtorEq, or_false] at h
  obtain ⟨_, -, -, rfl⟩ := h
  rfl

theorem FramesAndReads.order_of_emit_mem {order o : BitOrder} {es : List Event} {b : Byte} (h : FramesAndReads order es)
    (hmem : Event.emit b o ∈ es) : o = order := by
  induction h with
  | nil => simp at hmem
  | read t => simp at hmem
  | frame bytes => exact order_of_emit_mem_frameEvents hmem
  | append _ _ ihes ihfs => exact (List.mem_append.mp hmem).elim ihes ihfs

/-- Settles O43: a step out of reset adds whole frames in the configured order and reads, which emit nothing. -/
theorem everyEmitUsesTheBitOrder : Obligations.EveryEmitUsesTheBitOrder := by
  intro s t hrun h
  obtain ⟨es, htrace, hes⟩ := (runStep_of_run (step_of_running hrun ▸ h)).addsFramesAndReads
  exact ⟨es, htrace, fun _ _ => hes.order_of_emit_mem⟩

/-- Whole frames and reads leave no byte without its latch. -/
theorem FramesAndReads.pending_nil {order : BitOrder} {es : List Event} (h : FramesAndReads order es) :
    ∀ v : ChainView, v.pending = [] → (es.foldl chainEvent v).pending = [] := by
  induction h with
  | nil => exact fun _ hv => hv
  | read t => exact fun _ hv => hv
  | frame bytes => simp [frameEvents, chainEvent]
  | append _ _ ihes ihfs =>
    intro v hv
    rw [List.foldl_append]
    exact ihfs _ (ihes v hv)

/-- Settles O42: a step out of reset adds whole frames and reads, and the reset mark gives up the bytes of a frame that is cut. -/
theorem everyFrameIsLatched : Obligations.EveryFrameIsLatched := by
  intro s t hpend h
  rcases step_cases s with ⟨-, -, hstep⟩ | ⟨k, -, -, hstep⟩ | ⟨-, -, hstep⟩ | ⟨-, -, hstep⟩ <;> rw [hstep] at h
  · cases h
    exact hpend
  · rcases assertReset_inv h with ⟨-, rfl⟩ | ⟨k, u, -, -, rfl⟩ <;> rw [State.enterReset_trace, chainView_reset]
  · obtain ⟨-, rfl⟩ := releaseReset_inv h
    exact hpend
  · obtain ⟨es, htrace, hes⟩ := (runStep_of_run h).addsFramesAndReads
    rw [htrace, chainView_append]
    exact hes.pending_nil _ hpend

/-! ### The bytes a step takes (30_encoding R67, R68) -/

theorem ExecStep.port {s t : State} (h : ExecStep s t) : t.port = s.port := by
  cases h <;> simp

/-- A command is read past the bytes of an incomplete packet: what is left over is left over of the bytes after them. -/
theorem decode_rest_suffix {got bs rest : List Byte} {i : Instr} (hgot : decode got = .more)
    (h : decode (got ++ bs) = .cmd i rest) : ∃ taken, bs = taken ++ rest := by
  obtain ⟨hwf, henc⟩ := encode_of_decode h
  rcases List.append_eq_append_iff.mp henc with ⟨taken, -, hbs⟩ | ⟨left, hgot', -⟩
  · exact ⟨taken, hbs⟩
  · rw [hgot', decode_encode i left hwf] at hgot
    cases hgot

/-- The bytes held for a command are those of an incomplete packet. -/
theorem decode_of_accepts {s : State} {got : List Byte} (hok : s.cpOk = true) (hacc : s.Accepts got) : decode got = .more := by
  rcases hacc with ⟨-, rfl⟩ | hcp
  · rfl
  · obtain ⟨-, hdec, -⟩ := (cpOk_payload hcp).mp hok
    exact hdec

/-- A step out of reset takes bytes from the front of the port, and none while an output command is in progress. -/
theorem RunStep.takes_from_front {s t : State} (h : RunStep s t) (hok : s.cpOk = true) :
    ∃ taken, s.port = taken ++ t.port ∧ (taken ≠ [] → ∃ got, s.Accepts got) := by
  cases h with
  | exec hacc hdec hexec =>
    obtain ⟨taken, hport⟩ := decode_rest_suffix (decode_of_accepts hok hacc) hdec
    exact ⟨taken, by simpa [hexec.port] using hport, fun _ => ⟨_, hacc⟩⟩
  | wait hacc _ => exact ⟨s.port, by simp, fun _ => ⟨_, hacc⟩⟩
  | output hout => exact ⟨[], hout.port_cells.1.symm, absurd rfl⟩

theorem cmdReady_of_accepts {s : State} {got : List Byte} (hin : s.inReset = false) (hreset : s.resetIn ≠ .asserted 0)
    (hacc : s.Accepts got) : s.cmdReady = true :=
  (cmdReady_iff s).mpr ⟨hin, hreset, hacc.imp And.left fun hcp => ⟨got, hcp⟩⟩

@[simp] theorem cutStep_port (n : Nat) (s t : State) : (cutStep n s t).port = t.port := by
  rcases cutStep_cases n s t with ⟨-, hcut⟩ | ⟨-, hcut⟩ <;> simp [hcut]

/-- Settles O53: only what the block does out of reset takes bytes, those of the command it accepts, and CMD_READY is high then. -/
theorem bytesTransferOnlyWhenReady : Obligations.BytesTransferOnlyWhenReady := by
  intro s t hs h
  obtain ⟨-, -, -, hok⟩ := hs
  have running {u : State} (hin : s.inReset = false) (hreset : s.resetIn ≠ .asserted 0) (hrun : run s = .next u) :
      ∃ taken, s.port = taken ++ u.port ∧ (taken ≠ [] → s.cmdReady = true) := by
    obtain ⟨taken, hport, hacc⟩ := (runStep_of_run hrun).takes_from_front hok
    exact ⟨taken, hport, fun hne => (hacc hne).elim fun _ => cmdReady_of_accepts hin hreset⟩
  rcases step_cases s with ⟨-, -, hstep⟩ | ⟨k, hreset, hin, hstep⟩ | ⟨-, -, hstep⟩ | ⟨hreset, hin, hstep⟩ <;> rw [hstep] at h
  · cases h
    exact ⟨[], rfl, absurd rfl⟩
  · rcases assertReset_inv h with ⟨-, rfl⟩ | ⟨k, u, rfl, hrun, rfl⟩
    · exact ⟨[], rfl, absurd rfl⟩
    · simpa using running hin (by simp [hreset]) hrun
  · obtain ⟨-, rfl⟩ := releaseReset_inv h
    exact ⟨[], rfl, absurd rfl⟩
  · exact running hin (by simp [hreset]) h

end Sys2Proof.Machine

namespace Sys2Proof.Machine

/-! ### The reference glyphs and the dot (30_encoding R57 to R62; 40_encoder R86 to R91) -/

theorem glyphOf_referenceGlyphs : ∀ c : Byte, glyphOf referenceGlyphs c = referenceGlyphAt c.toNat := by decide +kernel

theorem glyphsOk_referenceGlyphs : glyphsOk referenceGlyphs = true := by decide +kernel

/-- The glyph function folds small letters to capitals (30_encoding R59). -/
theorem referenceGlyphAt_small {c : Nat} (hlo : 0x61 ≤ c) (hhi : c ≤ 0x7A) : referenceGlyphAt c = referenceGlyphAt (c - 0x20) := by
  have hdigit : ¬c ≤ 0x39 ∧ ¬c - 0x20 ≤ 0x39 := by omega
  have hcapital : ¬c ≤ 0x5A ∧ 0x41 ≤ c - 0x20 ∧ c - 0x20 ≤ 0x5A := by omega
  simp [referenceGlyphAt, hdigit, hcapital, hlo, hhi, Nat.sub_sub]

/-- Settles O47: the ROM gives the glyph function at each byte; its entries have bit 0 clear, and the function folds small letters. -/
theorem referenceGlyphsAreTheTable : Obligations.ReferenceGlyphsAreTheTable := by
  intro c
  refine ⟨glyphOf_referenceGlyphs c, ((glyphsOk_iff _).mp glyphsOk_referenceGlyphs).1 c, fun hlo hhi => ?_⟩
  have hcapital : (c - 0x20).toNat = c.toNat - 0x20 := BitVec.toNat_sub_of_le (by bv_omega)
  rw [glyphOf_referenceGlyphs, glyphOf_referenceGlyphs, hcapital, referenceGlyphAt_small hlo hhi]

/-- Settles O58: the glyph function of R60 at each of the 37 characters. -/
theorem glyphBytes : Obligations.GlyphBytes := by
  simp only [Obligations.GlyphBytes, glyphOf_referenceGlyphs, ← List.forall_iff_forall_mem]
  decide

theorem commit_commit (p : Polarity) (v : Byte) : commit p (commit p v) = v := by
  cases p
  · rfl
  · exact BitVec.not_not

/-- The dot does not change which digit a code shows (40_encoder R91). -/
theorem decodeDigit_enc (g : GlyphTable) (x : CharCell) : decodeDigit g (enc g x) = decodeDigit g (glyphOf g x.ch) := by
  have hmask : enc g x &&& 0xFE = glyphOf g x.ch &&& 0xFE := by
    rw [enc, BitVec.and_or_distrib_right]
    cases x.dot <;> exact BitVec.or_zero
  rw [decodeDigit, hmask, decodeDigit]

/-- With bit 0 of every glyph clear, bit 0 of a code is its dot. -/
theorem enc_dotBit {g : GlyphTable} (hg : glyphsOk g = true) (x : CharCell) : (enc g x).getLsbD 0 = x.dot := by
  have hbit : (glyphOf g x.ch).getLsbD 0 = false := ((glyphsOk_iff g).mp hg).1 x.ch
  rw [enc, BitVec.getLsbD_or, hbit]
  cases x.dot <;> rfl

/-- The digits have ten different glyphs. -/
theorem decodeDigit_glyphOf_digitChar : ∀ d < 10, decodeDigit referenceGlyphs (glyphOf referenceGlyphs (digitChar d)) = some d := by
  decide +kernel

/-- Settles O48: COMMIT undoes itself, the dot is masked away, and the glyph tells the digit. -/
theorem storedDigitsDecode : Obligations.StoredDigitsDecode := by
  intro p d dot hd
  refine ⟨?_, enc_dotBit glyphsOk_referenceGlyphs _⟩
  rw [commit_commit, decodeDigit_enc, decodeDigit_glyphOf_digitChar d hd]

/-! ### The default select codes (30_encoding R64 to R66) -/

theorem defaultSel_eq_take (p : Polarity) {n m : Nat} (h : n ≤ m) : defaultSel p n = (defaultSel p m).take n := by
  simp only [defaultSel, ← List.map_take, List.take_range, min_eq_left h]

/-- Settles O57: the default table is the beginning of the one for 8 cells, which is written out. -/
theorem defaultSelectCodes : Obligations.DefaultSelectCodes := by
  intro c hmax
  have hcathode : defaultSel .cathode 8 = [0x7F, 0xBF, 0xDF, 0xEF, 0xF7, 0xFB, 0xFD, 0xFE] := by decide
  have hanode : defaultSel .anode 8 = [0x80, 0x40, 0x20, 0x10, 0x08, 0x04, 0x02, 0x01] := by decide
  refine ⟨fun hsel hpol => ?_, fun hsel hpol => ?_, fun t hsel => by simp only [selectTable, hsel]⟩
  · simp only [selectTable, hsel, hpol, defaultSel_eq_take _ hmax, hcathode, defaultSelNone]
  · simp only [selectTable, hsel, hpol, defaultSel_eq_take _ hmax, hanode, defaultSelNone]

/-! ### Packets written out (95_test_vectors V3, V6) -/

theorem decode_of_eq_encode {bs rest : List Byte} {i : Instr} (hwf : i.wellFormed = true) (hbs : bs = encode i ++ rest) :
    decode bs = .cmd i rest := hbs ▸ decode_encode i rest hwf

/-- Settles O3: each byte list is the packet of its command, and what follows SHOW's packet is left over. -/
theorem writtenOutPacketsDecode : Obligations.WrittenOutPacketsDecode :=
  ⟨decode_of_eq_encode rfl rfl, decode_of_eq_encode rfl rfl, decode_of_eq_encode rfl rfl, decode_of_eq_encode rfl rfl,
    decode_of_eq_encode rfl rfl, decode_of_eq_encode rfl rfl, decode_of_eq_encode rfl rfl⟩

end Sys2Proof.Machine

namespace Sys2Proof.Machine

/-! ### Bytes stored at consecutive cells (00_scope R10, 20_memory R37) -/

/-- CELL[a + j] <- v[j] for each j, as one update of the buffer. -/
def State.store (s : State) (a : Nat) (vs : List Byte) : State := s.setCells (Memory.writeAll s.blank s.cells a vs)

@[simp] theorem State.store_cfg (s : State) (a : Nat) (vs : List Byte) : (s.store a vs).cfg = s.cfg := rfl

@[simp] theorem State.store_glyph (s : State) (a : Nat) (vs : List Byte) : (s.store a vs).glyph = s.glyph := rfl

theorem State.store_onlyCellsDiffer (s : State) (a : Nat) (vs : List Byte) : OnlyCellsDiffer s (s.store a vs) := rfl

/-- A run of writes completes exactly where its cells exist, and then it has stored its bytes. -/
theorem writeRun_eq_next_iff {a : Nat} {vs : List Byte} {s t : State} :
    writeRun a vs s = .next t ↔ (vs = [] ∨ a + vs.length ≤ s.cfg.dispLen) ∧ t = s.store a vs := by
  refine ⟨writeRun_inv vs a s t, ?_⟩
  rintro ⟨rfl | hlen, rfl⟩
  · rfl
  · exact writeRun_next vs a s hlen

/-- A write of one cell is a run of length 1. -/
theorem writeCell_eq_writeRun (a : Nat) (v : Byte) (s : State) : writeCell a v s = writeRun a [v] s := by
  simp only [writeRun, writeCell]
  split <;> rfl

/-- Stored bytes leave every other cell alone. -/
theorem State.cell_store_outside (s : State) {a b : Nat} {vs : List Byte} (h : b < a ∨ a + vs.length ≤ b) :
    (s.store a vs).cell b = s.cell b := Memory.read_writeAll_outside s.blank vs s.cells a b h

section
variable {s : State} {a : Nat} {vs : List Byte}

theorem bufferOk_store (hs : BufferOk s) (hlen : a + vs.length ≤ s.cfg.dispLen) : BufferOk (s.store a vs) :=
  ⟨hs.1, Memory.writeAll_wf vs hlen hs.2⟩

/-- Stored bytes are read back. -/
theorem State.cell_store_inside (hs : BufferOk s) (hlen : a + vs.length ≤ s.cfg.dispLen) {j : Nat} {v : Byte}
    (hv : vs[j]? = some v) : (s.store a vs).cell (a + j) = v := by
  obtain ⟨hj, rfl⟩ := List.getElem?_eq_some_iff.mp hv
  exact Memory.read_writeAll_inside vs j hj hlen hs.2

/-- After a store each cell holds its byte of the list, where the list has one, else what it held. -/
theorem State.cell_store (hs : BufferOk s) (hlen : a + vs.length ≤ s.cfg.dispLen) (b : Nat) :
    (s.store a vs).cell b = if a ≤ b then vs[b - a]?.getD (s.cell b) else s.cell b := by
  by_cases hab : a ≤ b
  · obtain ⟨j, rfl⟩ := Nat.exists_eq_add_of_le hab
    rw [if_pos hab, Nat.add_sub_cancel_left]
    cases hv : vs[j]? with
    | none => exact s.cell_store_outside (.inr (Nat.add_le_add_left (List.getElem?_eq_none_iff.mp hv) a))
    | some v => exact State.cell_store_inside hs hlen hv
  · rw [if_neg hab]
    exact s.cell_store_outside (.inl (by omega))

/-- Storing the same bytes again changes nothing: canonical buffers with the same cells are the same. -/
theorem State.store_store (hs : BufferOk s) (hlen : a + vs.length ≤ s.cfg.dispLen) : (s.store a vs).store a vs = s.store a vs := by
  have honce : BufferOk (s.store a vs) := bufferOk_store hs hlen
  have htwice : BufferOk ((s.store a vs).store a vs) := bufferOk_store honce hlen
  refine congrArg s.setCells (equalCellsAreEqualBuffers _ _ _ _ htwice.2 honce.2 fun b => ?_)
  change ((s.store a vs).store a vs).cell b = (s.store a vs).cell b
  rw [State.cell_store honce hlen, State.cell_store hs hlen]
  split
  · cases vs[b - a]? <;> rfl
  · rfl

end

/-! ### The four write commands (41_buffer R93 to R97) -/

/-- The check of a write command on the section it names: a whole write has the section's length, a single one is below it
(41_buffer R93). An output command names none. -/
def CheckPasses (r : Section) : Instr → Prop
  | .wsec _ codes => codes.length = r.len
  | .wcell _ idx _ => idx.toNat < r.len
  | .sdot _ idx _ => idx.toNat < r.len
  | .wchr _ chars => chars.length = r.len
  | .showFor _ => False
  | .update => False
  | .clear => False

/-- The first cell that a write command to section `r` writes. -/
def firstWritten (r : Section) : Instr → Nat
  | .wcell _ idx _ => r.start + idx.toNat
  | .sdot _ idx _ => r.start + idx.toNat
  | _ => r.start

/-- The bytes that a write command to section `r` stores from that cell on. -/
def State.bytesWritten (s : State) (r : Section) : Instr → List Byte
  | .wsec _ codes => codes.map (commit s.cfg.polarity)
  | .wcell _ _ code => [commit s.cfg.polarity code]
  | .sdot _ idx on => [withDot (s.cell (r.start + idx.toNat)) (commitDot s.cfg.polarity on)]
  | .wchr _ chars => chars.map (fun x => commit s.cfg.polarity (enc s.glyph x))
  | .showFor _ => []
  | .update => []
  | .clear => []

section
variable {s t : State} {i : Instr} {sec : BitVec 4} {r : Section}

theorem addressFails_iff (hsec : writeSection i = some sec) :
    AddressFails s i ↔ ∀ r, s.cfg.sections[sec.toNat]? = some r → ¬ CheckPasses r i := by
  cases i <;> cases hsec <;> simp [AddressFails, CheckPasses]

theorem checkPasses_of_not_addressFails (hsec : writeSection i = some sec) (hr : s.cfg.sections[sec.toNat]? = some r)
    (h : ¬ AddressFails s i) : CheckPasses r i := by
  by_contra hpass
  refine h ((addressFails_iff hsec).mpr fun q hq => ?_)
  rwa [← Option.some.inj (hr.symm.trans hq)]

/-- The address checks look at the section table only. -/
theorem addressFails_congr (h : t.cfg.sections = s.cfg.sections) : AddressFails t i ↔ AddressFails s i := by
  cases i <;> simp only [AddressFails, h]

/-- A failing check is a noop (41_buffer R93). -/
theorem exec_of_addressFails (h : AddressFails s i) : exec i s = .next s := by
  have hsec {sec : BitVec 4} {n : Nat} (h : ∀ r, s.cfg.sections[sec.toNat]? = some r → n ≠ r.len) : ¬ s.secOk sec n = true :=
    fun hok => let ⟨r, hr, hn⟩ := secOk_iff.mp hok; h r hr hn
  have haddr {sec : BitVec 4} {idx : Byte} (h : ∀ r, s.cfg.sections[sec.toNat]? = some r → r.len ≤ idx.toNat) :
      ¬ s.addrOk sec idx = true :=
    fun hok => let ⟨r, hr, hidx⟩ := addrOk_iff.mp hok; absurd hidx (Nat.not_lt.mpr (h r hr))
  cases i with
  | wsec sec codes => exact if_neg (hsec h)
  | wcell sec idx code => exact if_neg (haddr h)
  | sdot sec idx on => exact if_neg (haddr h)
  | wchr sec chars => exact if_neg (hsec h)
  | showFor dur => exact h.elim
  | update => exact h.elim
  | clear => exact h.elim

/-- A write command whose check passes is a run of writes. -/
theorem exec_of_checkPasses (hsec : writeSection i = some sec) (hr : s.cfg.sections[sec.toNat]? = some r) (hpass : CheckPasses r i) :
    exec i s = writeRun (firstWritten r i) (s.bytesWritten r i) s := by
  cases i with
  | wsec sec codes =>
    cases hsec
    rw [exec, execWsec, if_pos (secOk_iff.mpr ⟨r, hr, hpass⟩), secBegin_of hr]
    rfl
  | wcell sec idx code =>
    cases hsec
    rw [exec, execWcell, if_pos (addrOk_iff.mpr ⟨r, hr, hpass⟩), State.cellIndex, secBegin_of hr]
    exact writeCell_eq_writeRun _ _ _
  | sdot sec idx on =>
    cases hsec
    rw [exec, execSdot, if_pos (addrOk_iff.mpr ⟨r, hr, hpass⟩), State.cellIndex, secBegin_of hr]
    exact writeCell_eq_writeRun _ _ _
  | wchr sec chars =>
    cases hsec
    rw [exec, execWchr, if_pos (secOk_iff.mpr ⟨r, hr, hpass⟩), secBegin_of hr]
    rfl
  | showFor dur => cases hsec
  | update => cases hsec
  | clear => cases hsec

/-- A write command is a run of writes to the section it names, or a noop because its check fails. -/
theorem exec_write_cases (s : State) (hsec : writeSection i = some sec) :
    (∃ r, s.cfg.sections[sec.toNat]? = some r ∧ CheckPasses r i ∧ exec i s = writeRun (firstWritten r i) (s.bytesWritten r i) s) ∨
    (AddressFails s i ∧ exec i s = .next s) := by
  by_cases hfail : AddressFails s i
  · exact .inr ⟨hfail, exec_of_addressFails hfail⟩
  · rw [addressFails_iff hsec] at hfail
    push Not at hfail
    obtain ⟨r, hr, hpass⟩ := hfail
    exact .inl ⟨r, hr, hpass, exec_of_checkPasses hsec hr hpass⟩

/-- The cells written lie in the section. -/
theorem cellsWritten_inside (s : State) (hpass : CheckPasses r i) :
    r.start ≤ firstWritten r i ∧ firstWritten r i + (s.bytesWritten r i).length ≤ r.start + r.len := by
  cases i with
  | wsec sec codes =>
    have hlen : codes.length = r.len := hpass
    simp [firstWritten, State.bytesWritten, hlen]
  | wcell sec idx code =>
    have hidx : idx.toNat < r.len := hpass
    simp [firstWritten, State.bytesWritten, Nat.add_assoc, Nat.succ_le_of_lt hidx]
  | sdot sec idx on =>
    have hidx : idx.toNat < r.len := hpass
    simp [firstWritten, State.bytesWritten, Nat.add_assoc, Nat.succ_le_of_lt hidx]
  | wchr sec chars =>
    have hlen : chars.length = r.len := hpass
    simp [firstWritten, State.bytesWritten, hlen]
  | showFor dur => exact hpass.elim
  | update => exact hpass.elim
  | clear => exact hpass.elim

/-- In a consistent buffer the cells written exist. -/
theorem cellsWritten_exist (hs : BufferOk s) (hr : s.cfg.sections[sec.toNat]? = some r) (hpass : CheckPasses r i) :
    firstWritten r i + (s.bytesWritten r i).length ≤ s.cfg.dispLen :=
  (cellsWritten_inside s hpass).2.trans (section_inside hs.1 hr).2

/-- In a consistent buffer a write command whose check passes stores its bytes. -/
theorem exec_eq_store (hs : BufferOk s) (hsec : writeSection i = some sec) (hr : s.cfg.sections[sec.toNat]? = some r)
    (hpass : CheckPasses r i) : exec i s = .next (s.store (firstWritten r i) (s.bytesWritten r i)) := by
  rw [exec_of_checkPasses hsec hr hpass]
  exact writeRun_next _ _ _ (cellsWritten_exist hs hr hpass)

/-- In a consistent buffer a write command stores its bytes in the section it names, or is a noop because its check fails. -/
theorem exec_store_cases (hs : BufferOk s) (hsec : writeSection i = some sec) :
    (∃ r, s.cfg.sections[sec.toNat]? = some r ∧ CheckPasses r i ∧
      exec i s = .next (s.store (firstWritten r i) (s.bytesWritten r i))) ∨ (AddressFails s i ∧ exec i s = .next s) := by
  refine (exec_write_cases s hsec).imp_left ?_
  rintro ⟨r, hr, hpass, -⟩
  exact ⟨r, hr, hpass, exec_eq_store hs hsec hr hpass⟩

/-- A code written whole is stored, committed, at its place in the section. -/
theorem exec_stores_codeWritten (hs : BufferOk s) (hsec : writeSection i = some sec) (hr : s.cfg.sections[sec.toNat]? = some r)
    (hpass : CheckPasses r i) {j : Nat} {c : Byte} (hc : codeWritten s.glyph j i = some c) :
    (s.store (firstWritten r i) (s.bytesWritten r i)).cell (r.start + j) = commit s.cfg.polarity c := by
  have hstore := cellsWritten_exist hs hr hpass
  cases i with
  | wsec sec codes =>
    refine State.cell_store_inside hs hstore ?_
    simp [State.bytesWritten, show codes[j]? = some c from hc]
  | wcell sec idx code =>
    obtain ⟨rfl, rfl⟩ : idx.toNat = j ∧ code = c := by simpa [codeWritten] using hc
    exact State.cell_store_inside hs hstore (j := 0) rfl
  | wchr sec chars =>
    obtain ⟨x, hx, rfl⟩ : ∃ x, chars[j]? = some x ∧ enc s.glyph x = c := by simpa [codeWritten] using hc
    refine State.cell_store_inside hs hstore ?_
    simp [State.bytesWritten, hx]
  | sdot sec idx on => cases hc
  | showFor dur => cases hc
  | update => cases hc
  | clear => cases hc

end

/-! ### Each command's own cells -/

/-- Settles O8: the packet decodes to the command, and what is left on the port does not change its check. -/
theorem failingAddressConsumesThePacket : Obligations.FailingAddressConsumesThePacket := by
  intro s i rest hrun hready hwf hfail hport
  have hdec : decode s.port = .cmd i rest := decode_of_eq_encode hwf hport
  rw [(stepRunsTheDecodedCommand s i rest hrun).1 hready hdec]
  exact exec_of_addressFails ((addressFails_congr rfl).mpr hfail)

/-- Settles O10: the codes are stored from the section's first cell on, and fill it. -/
theorem wsecReplacesItsSection : Obligations.WsecReplacesItsSection := by
  refine fun s sec codes hs => ⟨fun r hr hlen => ?_, exec_of_addressFails (i := .wsec sec codes)⟩
  refine ⟨_, exec_eq_store hs rfl hr hlen, s.store_onlyCellsDiffer _ _, fun j v hv => ?_, fun a ha => s.cell_store_outside ?_⟩
  · exact exec_stores_codeWritten (i := .wsec sec codes) hs rfl hr hlen hv
  · simpa [firstWritten, State.bytesWritten, hlen] using ha

/-- Settles O11: the one byte is stored at the relative index. -/
theorem wcellReplacesOneCell : Obligations.WcellReplacesOneCell := by
  refine fun s sec idx code hs => ⟨fun r hr hidx => ?_, exec_of_addressFails (i := .wcell sec idx code)⟩
  refine ⟨_, exec_eq_store hs rfl hr hidx, s.store_onlyCellsDiffer _ _, ?_, fun a ha => s.cell_store_outside ?_⟩
  · exact exec_stores_codeWritten (i := .wcell sec idx code) hs rfl hr hidx (if_pos rfl)
  · have := lt_or_gt_of_ne ha
    simpa [firstWritten, State.bytesWritten, Nat.succ_le_iff] using this

/-- Settles O13: the encoded characters are stored from the section's first cell on, and fill it. -/
theorem wchrEncodesItsWindow : Obligations.WchrEncodesItsWindow := by
  refine fun s sec chars hs => ⟨fun r hr hlen => ?_, exec_of_addressFails (i := .wchr sec chars)⟩
  refine ⟨_, exec_eq_store hs rfl hr hlen, s.store_onlyCellsDiffer _ _, fun j x hx => ?_, fun a ha => s.cell_store_outside ?_⟩
  · exact exec_stores_codeWritten (i := .wchr sec chars) hs rfl hr hlen (congrArg (Option.map (enc s.glyph)) hx)
  · simpa [firstWritten, State.bytesWritten, hlen] using ha

/-! ### The dot (41_buffer R96) -/

/-- Bit 0 is the dot, and the others are kept. -/
theorem getLsbD_withDot (v : Byte) (bit : Bool) (k : Nat) : (withDot v bit).getLsbD k = if k = 0 then bit else v.getLsbD k := by
  have happend : (withDot v bit).getLsbD k = if k < 1 then (BitVec.ofBool bit).getLsbD k else (v.extractLsb' 1 7).getLsbD (k - 1) :=
    BitVec.getLsbD_append
  rw [happend]
  cases k with
  | zero => simp
  | succ k =>
    by_cases hk : k < 7
    · simp [hk, Nat.add_comm]
    · simp [hk, BitVec.getLsbD_of_ge v (k + 1) (by omega)]

theorem withDot_withDot (v : Byte) (b c : Bool) : withDot (withDot v b) c = withDot v c := by
  refine BitVec.eq_of_getLsbD_eq fun k _ => ?_
  simp only [getLsbD_withDot]
  split <;> rfl

theorem withDot_eq_or (v : Byte) (on : Bool) : withDot v on = (v &&& 0xFE) ||| (if on then 1 else 0) := by
  have hmask : ∀ k < 8, (0xFE : Byte).getLsbD k = !decide (k = 0) := by decide
  have hflag : ∀ k < 8, (if on then 1 else 0 : Byte).getLsbD k = (on && decide (k = 0)) := by cases on <;> decide
  refine BitVec.eq_of_getLsbD_eq fun k hk => ?_
  rw [getLsbD_withDot, BitVec.getLsbD_or, BitVec.getLsbD_and, hmask k hk, hflag k hk]
  by_cases hk0 : k = 0 <;> simp [hk0]

theorem commit_withDot (p : Polarity) (v : Byte) (on : Bool) : commit p (withDot v on) = withDot (commit p v) (commitDot p on) := by
  cases p with
  | cathode => rfl
  | anode =>
    refine BitVec.eq_of_getLsbD_eq fun k hk => ?_
    simp only [commit, commitDot, getLsbD_withDot, BitVec.getLsbD_not, hk, decide_true, Bool.true_and]
    split <;> rfl

/-- The two forms of R96: the dot bit replaced in the stored byte, and the logical code masked, dotted and committed. -/
theorem withDot_commitDot (p : Polarity) (v : Byte) (on : Bool) :
    withDot v (commitDot p on) = commit p ((commit p v &&& 0xFE) ||| (if on then 1 else 0)) := by
  rw [← withDot_eq_or, commit_withDot, commit_commit]

theorem commitDot_eq_xor (p : Polarity) (on : Bool) : commitDot p on = (on ^^ decide (p = .anode)) := by cases p <;> simp [commitDot]

/-- SDOT's cell holds the byte that SDOT stores. -/
theorem cell_store_sdot {s : State} {sec : BitVec 4} {idx : Byte} {on : Bool} {r : Section} (hs : BufferOk s)
    (hr : s.cfg.sections[sec.toNat]? = some r) (hidx : idx.toNat < r.len) :
    (s.store (firstWritten r (.sdot sec idx on)) (s.bytesWritten r (.sdot sec idx on))).cell (r.start + idx.toNat) =
      withDot (s.cell (r.start + idx.toNat)) (commitDot s.cfg.polarity on) :=
  State.cell_store_inside (j := 0) hs (cellsWritten_exist (i := .sdot sec idx on) hs hr hidx) rfl

/-- Settles O12: the stored byte is the old one with its dot bit replaced, read bit by bit and through COMMIT. -/
theorem sdotSetsOneDot : Obligations.SdotSetsOneDot := by
  refine fun s sec idx on hs => ⟨fun r hr hidx => ?_, exec_of_addressFails (i := .sdot sec idx on)⟩
  refine ⟨_, exec_eq_store hs rfl hr hidx, s.store_onlyCellsDiffer _ _, fun k => ?_, ?_, fun a ha => s.cell_store_outside ?_⟩
  · rw [cell_store_sdot hs hr hidx, getLsbD_withDot, commitDot_eq_xor]
  · rw [cell_store_sdot hs hr hidx, withDot_commitDot]
  · have := lt_or_gt_of_ne ha
    simpa [firstWritten, State.bytesWritten, Nat.succ_le_iff] using this

/-! ### What all write commands have in common (41_buffer R99 to R104) -/

/-- Settles O14: a write that completes has stored bytes at cells of the section, or its check has failed. -/
theorem writesStayInTheirSection : Obligations.WritesStayInTheirSection := by
  intro s t i sec hsec h
  rcases exec_write_cases s hsec with ⟨r, hr, hpass, hexec⟩ | ⟨-, hexec⟩
  · obtain ⟨-, rfl⟩ := writeRun_eq_next_iff.mp (hexec.symm.trans h)
    refine ⟨s.store_onlyCellsDiffer _ _, rfl, fun a ha => s.cell_store_outside ?_⟩
    have := cellsWritten_inside s hpass
    have := ha r hr
    omega
  · cases hexec.symm.trans h
    exact ⟨rfl, rfl, fun _ _ => rfl⟩

/-- What a write command stores, it would store again. -/
theorem bytesWritten_store {s : State} {i : Instr} {sec : BitVec 4} {r : Section} (hs : BufferOk s)
    (hsec : writeSection i = some sec) (hr : s.cfg.sections[sec.toNat]? = some r) (hpass : CheckPasses r i) :
    (s.store (firstWritten r i) (s.bytesWritten r i)).bytesWritten r i = s.bytesWritten r i := by
  cases i with
  | sdot sec idx on =>
    cases hsec
    rw [State.bytesWritten, cell_store_sdot hs hr hpass, State.store_cfg, withDot_withDot]
    rfl
  | wsec sec codes => rfl
  | wcell sec idx code => rfl
  | wchr sec chars => rfl
  | showFor dur => rfl
  | update => rfl
  | clear => rfl

/-- Settles O15: the second run stores the bytes of the first, at the same cells. -/
theorem writesAreIdempotent : Obligations.WritesAreIdempotent := by
  intro s t i sec hs hsec h
  rcases exec_store_cases hs hsec with ⟨r, hr, hpass, hexec⟩ | ⟨-, hexec⟩
  · cases hexec.symm.trans h
    have hlen := cellsWritten_exist hs hr hpass
    rw [exec_eq_store (bufferOk_store hs hlen) hsec hr hpass, bytesWritten_store hs hsec hr hpass, State.store_store hs hlen]
  · cases hexec.symm.trans h
    exact h

/-- Under the two polarities a write command stores complementary bytes. -/
theorem bytesWritten_complement {s u : State} (r : Section) (i : Instr) (hs : s.cfg.polarity = .cathode)
    (hu : u.cfg.polarity = .anode) (hglyph : u.glyph = s.glyph) (hcell : ∀ a, u.cell a = ~~~s.cell a) :
    u.bytesWritten r i = (s.bytesWritten r i).map (~~~·) := by
  cases i with
  | wsec sec codes => simp [State.bytesWritten, hs, hu, commit]
  | wcell sec idx code => simp [State.bytesWritten, hs, hu, commit]
  | wchr sec chars => simp [State.bytesWritten, hs, hu, hglyph, commit]
  | sdot sec idx on =>
    rw [State.bytesWritten, State.bytesWritten, hs, hu, hcell]
    exact congrArg (fun v => [v]) (commit_withDot .anode _ on).symm
  | showFor dur => rfl
  | update => rfl
  | clear => rfl

/-- Settles O16: both runs pass the same check, and store complementary bytes at the same cells of complementary buffers. -/
theorem writesComplementUnderPolarity : Obligations.WritesComplementUnderPolarity := by
  intro s u t i sec hs hu hpol hcfg hglyph hcell hsec h
  have hanode : u.cfg.polarity = .anode := by rw [hcfg]
  have hsections : u.cfg.sections = s.cfg.sections := by rw [hcfg]
  rcases exec_store_cases hs hsec with ⟨r, hr, hpass, hexec⟩ | ⟨hfail, hexec⟩
  · cases hexec.symm.trans h
    have hru : u.cfg.sections[sec.toNat]? = some r := hsections ▸ hr
    refine ⟨_, exec_eq_store hu hsec hru hpass, fun a => ?_⟩
    rw [State.cell_store hu (cellsWritten_exist hu hru hpass), State.cell_store hs (cellsWritten_exist hs hr hpass),
      bytesWritten_complement r i hpol hanode hglyph hcell, hcell, List.getElem?_map]
    split
    · exact Option.getD_map ..
    · rfl
  · cases hexec.symm.trans h
    exact ⟨u, exec_of_addressFails ((addressFails_congr hsections).mpr hfail), hcell⟩

/-- The state with another drive mode (10_state R17). -/
def State.withDriveMode (s : State) (d : DriveMode) : State := { s with cfg := { s.cfg with driveMode := d } }

theorem State.store_withDriveMode (s : State) (a : Nat) (vs : List Byte) (d : DriveMode) :
    (s.store a vs).withDriveMode d = (s.withDriveMode d).store a vs := rfl

theorem State.bytesWritten_withDriveMode (s : State) (r : Section) (i : Instr) (d : DriveMode) :
    (s.withDriveMode d).bytesWritten r i = s.bytesWritten r i := rfl

/-- A write command does the same in the other drive mode. -/
theorem exec_withDriveMode {s t : State} {i : Instr} {sec : BitVec 4} (d : DriveMode) (hsec : writeSection i = some sec)
    (h : exec i s = .next t) : exec i (s.withDriveMode d) = .next (t.withDriveMode d) := by
  rcases exec_write_cases s hsec with ⟨r, hr, hpass, hexec⟩ | ⟨hfail, hexec⟩
  · obtain ⟨hlen, rfl⟩ := writeRun_eq_next_iff.mp (hexec.symm.trans h)
    rw [exec_of_checkPasses (s := s.withDriveMode d) hsec hr hpass, State.bytesWritten_withDriveMode]
    exact writeRun_eq_next_iff.mpr ⟨hlen, s.store_withDriveMode _ _ d⟩
  · cases hexec.symm.trans h
    exact exec_of_addressFails ((addressFails_congr rfl).mpr hfail)

theorem execAll_cons_eq_next_iff {i : Instr} {is : List Instr} {s t : State} :
    execAll (i :: is) s = .next t ↔ ∃ u, exec i s = .next u ∧ execAll is u = .next t := by
  rw [execAll]
  cases exec i s <;> simp

/-- No stream of commands writes a configuration register (10_state R15). -/
theorem execAll_keeps_cfg {is : List Instr} : ∀ {s t : State}, execAll is s = .next t → t.cfg = s.cfg := by
  induction is with
  | nil =>
    intro s t h
    cases h
    rfl
  | cons i is ih =>
    intro s t h
    obtain ⟨u, hfirst, hrest⟩ := execAll_cons_eq_next_iff.mp h
    exact (ih hrest).trans (execStep_of_exec hfirst).keeps.cfg

theorem execAll_withDriveMode {is : List Instr} (d : DriveMode) (his : ∀ i ∈ is, ∃ sec, writeSection i = some sec) :
    ∀ {s t : State}, execAll is s = .next t → execAll is (s.withDriveMode d) = .next (t.withDriveMode d) := by
  induction is with
  | nil =>
    intro s t h
    cases h
    rfl
  | cons i is ih =>
    intro s t h
    obtain ⟨⟨sec, hsec⟩, his⟩ := List.forall_mem_cons.mp his
    obtain ⟨u, hfirst, hrest⟩ := execAll_cons_eq_next_iff.mp h
    exact execAll_cons_eq_next_iff.mpr ⟨_, exec_withDriveMode d hsec hfirst, ih his hrest⟩

/-- Settles O17: each command of the stream does the same in the other mode, and none writes a configuration register. -/
theorem writesIgnoreTheDriveMode : Obligations.WritesIgnoreTheDriveMode := by
  intro s t is d his h
  have hmode : t.withDriveMode d = { t with cfg := { s.cfg with driveMode := d } } := by
    rw [← execAll_keeps_cfg h]
    rfl
  exact hmode ▸ execAll_withDriveMode d his h

/-- Settles O18: each of the three commands stores its code at the cell, and COMMIT undoes itself under the dot. -/
theorem lastWriteWins : Obligations.LastWriteWins := by
  intro s first second sec idx c1 c2 on r hs hr hidx hsec1 hcheck1 hcode1 hsec2 hcheck2 hcode2
  have hpass1 := checkPasses_of_not_addressFails hsec1 hr hcheck1
  have hpass2 := checkPasses_of_not_addressFails hsec2 hr hcheck2
  have ht := bufferOk_store hs (cellsWritten_exist hs hr hpass1)
  have hu := bufferOk_store ht (cellsWritten_exist (i := .sdot sec idx on) ht hr hidx)
  refine ⟨_, _, _, exec_eq_store hs hsec1 hr hpass1, exec_eq_store (i := .sdot sec idx on) ht rfl hr hidx,
    exec_eq_store hu hsec2 hr hpass2, ?_, exec_stores_codeWritten hu hsec2 hr hpass2 hcode2⟩
  rw [cell_store_sdot ht hr hidx, withDot_commitDot, exec_stores_codeWritten hs hsec1 hr hpass1 hcode1, State.store_cfg,
    commit_commit]

end Sys2Proof.Machine

namespace Sys2Proof.Machine

/-! ### The operations of a burst, one step each (42_scanner R105, R106, R110, R111) -/

theorem step_of_guard {s : State} (hrun : Running s) (hcp : s.cp = .busy .guard) : step s = guardStep s := by
  simp [step_of_running hrun, run, hcp]

theorem step_of_drive {s : State} (hrun : Running s) (hcp : s.cp = .busy .drive) : step s = driveStep s := by
  simp [step_of_running hrun, run, hcp]

theorem step_of_slice {s : State} {t0 : Word32} (hrun : Running s) (hcp : s.cp = .busy (.slice t0)) : step s = sliceStep t0 s := by
  simp [step_of_running hrun, run, hcp]

theorem passOverruns_iff {s : State} {t : Word32} :
    s.passOverruns t = true ↔ s.scanDur.toNat < elapsed s.scanT0 t + s.tPass := by simp [State.passOverruns]

theorem passOverruns_eq_false_iff {s : State} {t : Word32} :
    s.passOverruns t = false ↔ elapsed s.scanT0 t + s.tPass ≤ s.scanDur.toNat := by simp [State.passOverruns]

/-- CELL_FRAME(i), its select code read from the table with a default (42_scanner R105). -/
def State.muxFrame (s : State) (i : Nat) : List Byte := s.muxPair (s.cfg.sel.getD i 0) (s.cell i)

/-- In MUX mode every cell has a select code. -/
theorem sel_getElem? {s : State} (hregs : registersOk s.cfg = true) (hmode : s.cfg.driveMode = .mux) {i : Nat}
    (hi : i < s.cfg.dispLen) : s.cfg.sel[i]? = some (s.cfg.sel.getD i 0) := by
  obtain ⟨-, -, -, ⟨hmax, -⟩, hsel, -⟩ := registersOk_iff.mp hregs
  have hlt : i < s.cfg.sel.length := by rw [hsel hmode]; omega
  simp [hlt]

theorem cellFrame_eq_muxFrame {s : State} (hregs : registersOk s.cfg = true) (hmode : s.cfg.driveMode = .mux) {i : Nat}
    (hi : i < s.cfg.dispLen) : s.cellFrame i = .ok (s.muxFrame i) := cellFrame_ok hi (sel_getElem? hregs hmode hi)

/-- A drive step whose cell has a frame sends it, and begins the slice with a read. -/
theorem driveStep_of_cellFrame {s : State} {bytes : List Byte} (h : s.cellFrame s.scanI = .ok bytes) :
    driveStep s = .next ((s.sendFrame bytes).afterNow.setCp (.busy (.slice s.now))) := by
  simp only [driveStep, h]
  rfl

/-- Settles O20: CLEAR's frame in the two modes, and in MUX mode in the two orders. -/
theorem clearSendsTheBlankFrame : Obligations.ClearSendsTheBlankFrame := by
  intro s
  cases hmode : s.cfg.driveMode with
  | mux =>
    refine ⟨s.clearFrameMux, by simp only [exec, execClear, hmode]; rfl, fun _ hswap => ?_, fun _ hswap => ?_, nofun⟩
    · simp [State.clearFrameMux, State.muxPair, hswap, State.blank, blankCode]
    · simp [State.clearFrameMux, State.muxPair, hswap, State.blank, blankCode]
  | static =>
    exact ⟨s.clearFrameStatic, by simp only [exec, execClear, hmode]; rfl, nofun, nofun,
      fun _ => ⟨List.length_replicate, fun _ hb => List.eq_of_mem_replicate hb⟩⟩

/-- Settles O21: what `startBurst` and `startHold` write. -/
theorem showStartsItsOutput : Obligations.ShowStartsItsOutput := by
  intro s dur
  refine ⟨fun hmode => ⟨startBurst dur s, by simp only [exec, execShow, hmode], startBurst_trace s dur, ?_⟩,
    fun hmode => ⟨startHold dur s, by simp only [exec, execShow, hmode], rfl, rfl⟩⟩
  unfold startBurst
  split <;> rfl

/-- Settles O22: the two answers of the guard, told apart by its comparison. -/
theorem guardDecidesBeforeThePass : Obligations.GuardDecidesBeforeThePass := by
  intro s hrun hcp
  rw [step_of_guard hrun hcp]
  refine ⟨fun hover => ?_, fun hfits => ?_⟩
  · simp only [guardStep, passOverruns_iff.mpr hover]
    rfl
  · simp [guardStep, passOverruns_eq_false_iff.mpr hfits]

/-- Settles O23: the cell and its select code exist, so the drive step sends their frame. -/
theorem driveSendsTheCellFrame : Obligations.DriveSendsTheCellFrame := by
  intro s hs hrun hcp
  obtain ⟨hregs, -, -, hok⟩ := hs
  obtain ⟨-, hmode, hi, -⟩ := (cpOk_drive hcp).mp hok
  refine ⟨_, _, sel_getElem? hregs hmode hi,
    (step_of_drive hrun hcp).trans (driveStep_of_cellFrame (cellFrame_eq_muxFrame hregs hmode hi)), rfl, ?_, rfl⟩
  cases hswap : s.cfg.swapped <;> simp [State.now, State.muxFrame, State.muxPair, hswap, frameEvents]

/-- Settles O24: the three answers of a poll, told apart by the time and the cell. -/
theorem sliceWaitsThenAdvances : Obligations.SliceWaitsThenAdvances := by
  intro s t0 hrun hcp
  rw [step_of_slice hrun hcp]
  refine ⟨fun hearly => ?_, fun hpast hcell => ?_, fun hpast hcell => ?_⟩
  · exact if_neg (not_le.mpr hearly)
  · exact (if_pos hpast).trans (if_pos hcell)
  · exact (if_pos hpast).trans (if_neg (not_lt.mpr hcell))

/-! ### Elapsed time (10_state R35) -/

/-- Elapsed times mod 2^32 add up, or less where the sum wraps. -/
theorem elapsed_le_add (t0 t1 t2 : Word32) : elapsed t0 t2 ≤ elapsed t0 t1 + elapsed t1 t2 := by
  have hsum : t2 - t0 = (t1 - t0) + (t2 - t1) := by ring
  rw [elapsed, hsum, BitVec.toNat_add]
  exact Nat.mod_le _ _

/-- The elapsed time between reads at two clocks is the true one, mod 2^32. -/
theorem elapsed_ofNat {c d : Nat} (h : c ≤ d) : elapsed (BitVec.ofNat 32 c) (BitVec.ofNat 32 d) = (d - c) % 2 ^ 32 := by
  obtain ⟨k, rfl⟩ := Nat.exists_eq_add_of_le h
  rw [elapsed, BitVec.ofNat_add, add_sub_cancel_left, BitVec.toNat_ofNat, Nat.add_sub_cancel_left]

theorem elapsed_ofNat_of_lt {c d : Nat} (h : c ≤ d) (hlt : d < c + 2 ^ 32) :
    elapsed (BitVec.ofNat 32 c) (BitVec.ofNat 32 d) = d - c := by
  rw [elapsed_ofNat h, Nat.mod_eq_of_lt (by omega)]

/-- Settles O28: the guard left room for T_PASS, and elapsed times add up. -/
theorem admittedPassEndsInTime : Obligations.AdmittedPassEndsInTime := by
  intro s later hadm hlater
  calc elapsed s.scanT0 later ≤ elapsed s.scanT0 s.now + elapsed s.now later := elapsed_le_add ..
    _ ≤ elapsed s.scanT0 s.now + s.tPass := by omega
    _ ≤ s.scanDur.toNat := passOverruns_eq_false_iff.mp hadm

end Sys2Proof.Machine

namespace Sys2Proof.Machine

/-! ### Several steps -/

theorem steps_succ_eq_next_iff {n : Nat} {s t : State} :
    steps (n + 1) s = .next t ↔ ∃ u, step s = .next u ∧ steps n u = .next t := by
  simp only [steps]
  cases step s <;> simp

theorem steps_add {m : Nat} (n : Nat) {s u : State} (h : steps m s = .next u) : steps (m + n) s = steps n u := by
  induction m generalizing s with
  | zero => cases h; simp
  | succ m ih =>
    obtain ⟨v, hv, hu⟩ := steps_succ_eq_next_iff.mp h
    rw [Nat.add_right_comm, steps, hv]
    exact ih hu

/-- What every step keeps, any number of steps keeps. -/
theorem steps_keep {P : State → Prop} (hstep : ∀ {u v : State}, P u → step u = .next v → P v) {n : Nat} {s t : State} (hs : P s)
    (h : steps n s = .next t) : P t := by
  induction n generalizing s with
  | zero => cases h; exact hs
  | succ n ih =>
    obtain ⟨u, hu, ht⟩ := steps_succ_eq_next_iff.mp h
    exact ih (hstep hs hu) ht

/-! ### Frames sent -/

theorem framesEvents_append (order : BitOrder) (fs gs : List (List Byte)) :
    framesEvents order (fs ++ gs) = framesEvents order fs ++ framesEvents order gs := by simp [framesEvents]

theorem framesEvents_singleton (order : BitOrder) (bytes : List Byte) : framesEvents order [bytes] = frameEvents order bytes := by
  simp [framesEvents]

theorem outputs_now (t : Word32) : outputs [.now t] = [] := rfl

theorem outputs_frameEvents (order : BitOrder) (bytes : List Byte) : outputs (frameEvents order bytes) = frameEvents order bytes := by
  simp [outputs, frameEvents, List.filter_map, Function.comp_def]

/-- `u` comes after `s` in one burst that has sent `frames` since: the scan parameters, the registers and the buffer are those of `s`. -/
structure Sent (s u : State) (frames : List (List Byte)) : Prop where
  running : Running u
  port : u.port = []
  cells : u.cells = s.cells
  cfg : u.cfg = s.cfg
  scanT0 : u.scanT0 = s.scanT0
  scanDur : u.scanDur = s.scanDur
  outputs_trace : outputs u.trace = outputs s.trace ++ framesEvents s.cfg.bitOrder frames

section
variable {s u : State} {frames : List (List Byte)}

theorem Sent.afterNow (h : Sent s u frames) : Sent s u.afterNow frames :=
  { h with outputs_trace := by simp only [State.afterNow_trace, outputs_append, h.outputs_trace, outputs_now, List.append_nil] }

theorem Sent.setCp (h : Sent s u frames) (c : CP) : Sent s (u.setCp c) frames := { h with outputs_trace := h.outputs_trace }

theorem Sent.setDrv (h : Sent s u frames) (d : Drv) : Sent s (u.setDrv d) frames := { h with outputs_trace := h.outputs_trace }

theorem Sent.setScanI (h : Sent s u frames) (i : Nat) : Sent s (u.setScanI i) frames := { h with outputs_trace := h.outputs_trace }

theorem Sent.sendFrame (h : Sent s u frames) (bytes : List Byte) : Sent s (u.sendFrame bytes) (frames ++ [bytes]) := by
  refine { h with outputs_trace := ?_ }
  rw [State.sendFrame_trace, outputs_append, outputs_frameEvents, h.outputs_trace, h.cfg, framesEvents_append, framesEvents_singleton,
    List.append_assoc]

theorem muxFrame_congr (hcfg : u.cfg = s.cfg) (hcells : u.cells = s.cells) (i : Nat) : u.muxFrame i = s.muxFrame i := by
  simp only [State.muxFrame, State.muxPair, State.cell, State.blank, hcfg, hcells]

theorem clearFrameMux_congr (hcfg : u.cfg = s.cfg) : u.clearFrameMux = s.clearFrameMux := by
  simp only [State.clearFrameMux, State.muxPair, State.blank, hcfg]

theorem tPass_congr (hcfg : u.cfg = s.cfg) : u.tPass = s.tPass := by simp only [State.tPass, hcfg]

theorem passFrames_eq_muxFrames (s : State) : passFrames s = (List.range s.cfg.dispLen).map s.muxFrame := rfl

theorem burstFrames_congr (hcfg : u.cfg = s.cfg) (hcells : u.cells = s.cells) (p : Nat) : burstFrames u p = burstFrames s p := by
  simp only [burstFrames, passFrames_eq_muxFrames, clearFrameMux_congr hcfg, funext (muxFrame_congr hcfg hcells), hcfg]

/-- The guard's comparison is the same throughout a burst. -/
theorem Sent.passOverruns (h : Sent s u frames) (t : Word32) : u.passOverruns t = s.passOverruns t := by
  simp only [State.passOverruns, h.scanDur, h.scanT0, tPass_congr h.cfg]

theorem Sent.endBurst (h : Sent s u frames) : Sent s (endBurst u) (frames ++ [s.clearFrameMux]) :=
  clearFrameMux_congr h.cfg ▸ ((h.sendFrame u.clearFrameMux).setDrv .idle).setCp .ready

/-- A drive step of a burst sends the cell's frame as the buffer held it, and begins its slice. -/
theorem Sent.step_drive (h : Sent s u frames) (hregs : registersOk s.cfg = true) (hmode : s.cfg.driveMode = .mux)
    (hcp : u.cp = .busy .drive) (hi : u.scanI < s.cfg.dispLen) :
    step u = .next ((u.sendFrame (s.muxFrame u.scanI)).afterNow.setCp (.busy (.slice u.now))) := by
  rw [step_of_drive h.running hcp, ← muxFrame_congr h.cfg h.cells]
  rw [← h.cfg] at hregs hmode hi
  exact driveStep_of_cellFrame (cellFrame_eq_muxFrame hregs hmode hi)

end

/-- The frames of `p` whole passes and of the first `i` cells of another (42_scanner R117). -/
def State.framesUpTo (s : State) (p i : Nat) : List (List Byte) :=
  (List.replicate p (passFrames s)).flatten ++ (List.range i).map s.muxFrame

theorem Sent.start {s : State} (hrun : Running s) (hport : s.port = []) : Sent s s (s.framesUpTo 0 0) :=
  ⟨hrun, hport, rfl, rfl, rfl, rfl, (List.append_nil _).symm⟩

theorem State.framesUpTo_succ (s : State) (p i : Nat) : s.framesUpTo p (i + 1) = s.framesUpTo p i ++ [s.muxFrame i] := by
  simp [State.framesUpTo, List.range_succ]

/-- The frames of all cells make a pass. -/
theorem State.framesUpTo_dispLen (s : State) (p : Nat) : s.framesUpTo p s.cfg.dispLen = s.framesUpTo (p + 1) 0 := by
  simp [State.framesUpTo, List.replicate_succ', passFrames_eq_muxFrames]

theorem burstFrames_eq_framesUpTo (s : State) (p : Nat) : burstFrames s p = s.framesUpTo p 0 ++ [s.clearFrameMux] := by
  simp [burstFrames, State.framesUpTo]

/-! ### Where a burst is (42_scanner R110, R113, R114) -/

/-- The clock at which the frame of cell `i` of pass `p` begins, at the earliest: every slice lasts at least T_CELL_MS. -/
def State.earliest (s : State) (p i : Nat) : Nat := s.clock + (p * s.cfg.dispLen + i) * s.cfg.tCellMs.toNat

theorem State.earliest_zero (s : State) : s.earliest 0 0 = s.clock := by simp [State.earliest]

theorem State.earliest_succ (s : State) (p i : Nat) : s.earliest p (i + 1) = s.earliest p i + s.cfg.tCellMs.toNat := by
  simp only [State.earliest]
  ring

theorem State.earliest_dispLen (s : State) (p : Nat) : s.earliest p s.cfg.dispLen = s.earliest (p + 1) 0 := by
  simp only [State.earliest]
  ring

/-- Each of `n` passes was admitted by a guard read, no earlier than the passes before it take and no later than the clock of `u`. -/
def PassesAdmitted (s u : State) (n : Nat) : Prop :=
  ∀ q < n, ∃ c, s.earliest q 0 ≤ c ∧ c ≤ u.clock ∧ s.passOverruns (BitVec.ofNat 32 c) = false

theorem PassesAdmitted.mono {s u v : State} {n : Nat} (h : PassesAdmitted s u n) (hclock : u.clock ≤ v.clock) :
    PassesAdmitted s v n := by
  intro q hq
  obtain ⟨c, hc, hcu, hadm⟩ := h q hq
  exact ⟨c, hc, hcu.trans hclock, hadm⟩

theorem PassesAdmitted.succ {s u : State} {n : Nat} (h : PassesAdmitted s u n) (hclock : s.earliest n 0 ≤ u.clock)
    (hadm : s.passOverruns (BitVec.ofNat 32 u.clock) = false) : PassesAdmitted s u (n + 1) := by
  intro q hq
  rcases Nat.lt_succ_iff_lt_or_eq.mp hq with hq | rfl
  · exact h q hq
  · exact ⟨u.clock, hclock, le_rfl, hadm⟩

/-- Where `u` is in the burst whose first guard is `s`: the whole passes and cells sent, the passes admitted, and the time they took
at least. -/
inductive BurstAt (s u : State) : Prop
  | guard (p : Nat) (hcp : u.cp = .busy .guard) (hsent : Sent s u (s.framesUpTo p 0)) (hadm : PassesAdmitted s u p)
      (hclock : s.earliest p 0 ≤ u.clock)
  | drive (p : Nat) (hcp : u.cp = .busy .drive) (hi : u.scanI < s.cfg.dispLen) (hsent : Sent s u (s.framesUpTo p u.scanI))
      (hadm : PassesAdmitted s u (p + 1)) (hclock : s.earliest p u.scanI ≤ u.clock)
  | slice (p c : Nat) (hcp : u.cp = .busy (.slice (BitVec.ofNat 32 c))) (hi : u.scanI < s.cfg.dispLen)
      (hsent : Sent s u (s.framesUpTo p (u.scanI + 1))) (hadm : PassesAdmitted s u (p + 1)) (hstart : s.earliest p u.scanI ≤ c)
      (hclock : c ≤ u.clock)
  | ended (p : Nat) (hcp : u.cp = .ready) (hdrv : u.drv = .idle) (hsent : Sent s u (burstFrames s p)) (hadm : PassesAdmitted s u p)

theorem BurstAt.start {s : State} (hrun : Running s) (hcp : s.cp = .busy .guard) (hport : s.port = []) : BurstAt s s :=
  .guard 0 hcp (.start hrun hport) (fun _ h => absurd h (Nat.not_lt_zero _)) s.earliest_zero.le

theorem BurstAt.sent {s u : State} (h : BurstAt s u) : ∃ frames, Sent s u frames := by
  cases h <;> exact ⟨_, ‹Sent s u _›⟩

/-- A burst that has ended has sent whole passes and the clear frame. -/
theorem BurstAt.of_ready {s u : State} (h : BurstAt s u) (hready : u.cp = .ready) :
    ∃ p, u.drv = .idle ∧ Sent s u (burstFrames s p) ∧ PassesAdmitted s u p := by
  cases h with
  | guard p hcp => cases hready.symm.trans hcp
  | drive p hcp => cases hready.symm.trans hcp
  | slice p c hcp => cases hready.symm.trans hcp
  | ended p hcp hdrv hsent hadm => exact ⟨p, hdrv, hsent, hadm⟩

/-- With nothing on the port the block stays READY as it is. -/
theorem step_of_ready_of_port_nil {s : State} (hrun : Running s) (hcp : s.cp = .ready) (hport : s.port = []) : step s = .next s := by
  have hmore : decode ([] ++ s.port) = .more := by rw [hport]; rfl
  have hsame : (s.setPort []).setCp (waitingCp ([] ++ s.port)) = s := by
    cases s
    cases hcp
    cases hport
    rfl
  rw [step_of_decode_more hrun (.inl ⟨hcp, rfl⟩) hmore, hsame]

/-- A wait that is over has taken its time on the clock too. -/
theorem add_le_of_le_elapsed {c d n : Nat} (hcd : c ≤ d) (h : n ≤ elapsed (BitVec.ofNat 32 c) (BitVec.ofNat 32 d)) : c + n ≤ d := by
  rw [elapsed_ofNat hcd] at h
  have := Nat.mod_le (d - c) (2 ^ 32)
  omega

/-- Every step goes on with the burst. -/
theorem BurstAt.step {s u v : State} (hregs : registersOk s.cfg = true) (hmode : s.cfg.driveMode = .mux) (h : BurstAt s u)
    (hstep : step u = .next v) : BurstAt s v := by
  have hnext := u.clock_le_nextClock
  cases h with
  | guard p hcp hsent hadm hclock =>
    rw [step_of_guard hsent.running hcp] at hstep
    have hadm' : PassesAdmitted s u.afterNow p := hadm.mono hnext
    rcases guardStep_cases u with ⟨-, hguard⟩ | ⟨hover, hguard⟩ <;> cases hguard.symm.trans hstep
    · exact .ended p rfl rfl (burstFrames_eq_framesUpTo s p ▸ hsent.afterNow.endBurst) hadm'
    · exact .drive p rfl (dispLen_pos hregs) ((hsent.afterNow.setScanI 0).setCp _)
        (hadm'.succ (hclock.trans hnext) (hsent.passOverruns u.now ▸ hover)) (hclock.trans hnext)
  | drive p hcp hi hsent hadm hclock =>
    cases (hsent.step_drive hregs hmode hcp hi).symm.trans hstep
    exact .slice p u.nextClock rfl hi (s.framesUpTo_succ p _ ▸ ((hsent.sendFrame _).afterNow.setCp _)) (hadm.mono hnext)
      (hclock.trans hnext) le_rfl
  | slice p c hcp hi hsent hadm hstart hclock =>
    rw [step_of_slice hsent.running hcp] at hstep
    have htime (hpast : u.cfg.tCellMs.toNat ≤ elapsed (BitVec.ofNat 32 c) u.now) : s.earliest p (u.scanI + 1) ≤ u.nextClock := by
      rw [hsent.cfg] at hpast
      exact s.earliest_succ p _ ▸ (Nat.add_le_add_right hstart _).trans (add_le_of_le_elapsed (hclock.trans hnext) hpast)
    rcases sliceStep_cases (BitVec.ofNat 32 c) u with ⟨-, hslice⟩ | ⟨hpast, hcell, hslice⟩ | ⟨hpast, hcell, hslice⟩ <;>
      cases hslice.symm.trans hstep
    · exact .slice p c hcp hi hsent.afterNow (hadm.mono hnext) hstart (hclock.trans hnext)
    · exact .drive p rfl (hsent.cfg ▸ hcell) ((hsent.afterNow.setScanI _).setCp _) (hadm.mono hnext) (htime hpast)
    · have hlast : u.scanI + 1 = s.cfg.dispLen := le_antisymm hi (hsent.cfg ▸ hcell)
      rw [hlast] at hsent htime
      exact .guard (p + 1) rfl (s.framesUpTo_dispLen p ▸ hsent.afterNow.setCp _) (hadm.mono hnext)
        (s.earliest_dispLen p ▸ htime hpast)
  | ended p hcp hdrv hsent hadm =>
    cases (step_of_ready_of_port_nil hsent.running hcp hsent.port).symm.trans hstep
    exact .ended p hcp hdrv hsent hadm

/-- Settles O25: every step goes on with the burst, and one that has ended has sent whole passes and the clear frame. -/
theorem burstSendsWholePasses : Obligations.BurstSendsWholePasses := by
  intro s t n hs hrun hcp hport h hready
  obtain ⟨hregs, -, -, hok⟩ := hs
  obtain ⟨-, hmode, -⟩ := (cpOk_guard hcp).mp hok
  have ht : BurstAt s t := steps_keep (BurstAt.step hregs hmode) (.start hrun hcp hport) h
  obtain ⟨p, hdrv, hsent, -⟩ := ht.of_ready hready
  exact ⟨hsent.cells, hdrv, p, hsent.outputs_trace⟩

/-! ### A burst from its SHOW on (42_scanner R108, R110) -/

/-- SHOW in MUX mode, alone on the port, begins a burst. -/
theorem step_of_show {s : State} {dur : Word32} (hrun : Running s) (hmode : s.cfg.driveMode = .mux) (hcp : s.cp = .ready)
    (hport : s.port = encode (.showFor dur)) : step s = .next (startBurst dur (s.setPort [])) := by
  have hdec : decode s.port = .cmd (.showFor dur) [] := by simpa [hport] using decode_encode (.showFor dur) [] rfl
  rw [(stepRunsTheDecodedCommand s _ [] hrun).1 hcp hdec]
  simp only [exec, execShow, State.setPort_cfg, hmode]

/-- The frames before the first guard: the clear frame if CLEAR_BEFORE = 1 (42_scanner R108). -/
def State.leadingFrames (s : State) : List (List Byte) := if s.cfg.clearBefore then [s.clearFrameMux] else []

theorem State.length_leadingFrames (s : State) : s.leadingFrames.length = if s.cfg.clearBefore then 1 else 0 := by
  unfold State.leadingFrames
  split <;> rfl

theorem outputs_startBurst (dur : Word32) (s : State) :
    outputs (startBurst dur s).trace = outputs s.trace ++ framesEvents s.cfg.bitOrder s.leadingFrames := by
  rw [startBurst_trace, outputs_append, outputs_append, outputs_now, List.append_nil, State.leadingFrames]
  split
  · rw [outputs_frameEvents, framesEvents_singleton]
  · rfl

/-- `g` is the first guard of the burst that SHOW begins in `s`. -/
structure ShowStarts (s : State) (dur : Word32) (g : State) : Prop where
  step : step s = .next g
  cfg : g.cfg = s.cfg
  cells : g.cells = s.cells
  cp : g.cp = .busy .guard
  scanT0 : g.scanT0 = BitVec.ofNat 32 g.clock
  scanDur : g.scanDur = dur
  clock : g.clock = s.nextClock
  timeIn : g.timeIn = s.timeIn.tail
  running : Running g
  port : g.port = []
  outputs_trace : outputs g.trace = outputs s.trace ++ framesEvents s.cfg.bitOrder s.leadingFrames

theorem showStarts {s : State} {dur : Word32} (hrun : Running s) (hmode : s.cfg.driveMode = .mux) (hcp : s.cp = .ready)
    (hport : s.port = encode (.showFor dur)) : ∃ g, ShowStarts s dur g := by
  refine ⟨startBurst dur (s.setPort []), ?_⟩
  constructor
  case step => exact step_of_show hrun hmode hcp hport
  case outputs_trace => exact outputs_startBurst dur (s.setPort [])
  case running => simpa [Running] using hrun
  all_goals simp [State.now, State.nextClock, State.nextAdvance]

/-- A burst that has ended has sent, from its SHOW on, the leading frames, whole passes and the clear frame. -/
theorem ShowStarts.outputs_of_sent {s g t : State} {dur : Word32} {p : Nat} (h : ShowStarts s dur g)
    (ht : Sent g t (burstFrames g p)) :
    outputs t.trace = outputs s.trace ++ framesEvents s.cfg.bitOrder (s.leadingFrames ++ burstFrames s p) := by
  rw [ht.outputs_trace, h.outputs_trace, h.cfg, burstFrames_congr h.cfg h.cells, framesEvents_append, List.append_assoc]

/-- Within 2^32 ms of SCAN_T0, an admitted pass has T_PASS left before SCAN_DUR, by the clock too. -/
theorem clock_add_tPass_le {s : State} {c : Nat} (ht0 : s.scanT0 = BitVec.ofNat 32 s.clock) (hle : s.clock ≤ c)
    (hlt : c < s.clock + 2 ^ 32) (hadm : s.passOverruns (BitVec.ofNat 32 c) = false) : c + s.tPass ≤ s.clock + s.scanDur.toNat := by
  rw [passOverruns_eq_false_iff, ht0, elapsed_ofNat_of_lt hle hlt] at hadm
  omega

/-- Without an allowance for the frames' transport a pass takes T_PASS at least (42_scanner R107). -/
theorem State.earliest_eq_tPass {s : State} (hframe : s.cfg.tFrameMs = 0) (p : Nat) : s.earliest p 0 = s.clock + p * s.tPass := by
  have hzero : s.cfg.tFrameMs.toNat = 0 := by rw [hframe]; rfl
  simp only [State.earliest, State.tPass, hzero, Nat.add_zero, Nat.mul_assoc]

theorem ShowStarts.tPass {s g : State} {dur : Word32} (h : ShowStarts s dur g) : g.tPass = s.tPass := tPass_congr h.cfg

/-- The last admitted pass was admitted after the passes before it, and had T_PASS left. -/
theorem PassesAdmitted.mul_tPass_le {s u : State} {p : Nat} (h : PassesAdmitted s u p) (hframe : s.cfg.tFrameMs = 0)
    (ht0 : s.scanT0 = BitVec.ofNat 32 s.clock) (hlt : u.clock < s.clock + 2 ^ 32) : p * s.tPass ≤ s.scanDur.toNat := by
  cases p with
  | zero => simp
  | succ q =>
    obtain ⟨c, hc, hcu, hadm⟩ := h q (Nat.lt_succ_self q)
    rw [State.earliest_eq_tPass hframe] at hc
    have := clock_add_tPass_le ht0 (by omega) (by omega) hadm
    rw [Nat.succ_mul]
    omega

/-- Settles O27: the burst that SHOW begins has ended after whole passes, each admitted with T_PASS left, and none shorter than
T_PASS. -/
theorem passCountIsBounded : Obligations.PassCountIsBounded := by
  intro s t dur n hs hrun hmode hcp hframe hport hn h hready hclock
  obtain ⟨k, rfl⟩ := Nat.exists_eq_add_one_of_ne_zero (Nat.ne_zero_of_lt hn)
  obtain ⟨g, hshow⟩ := showStarts hrun hmode hcp hport
  obtain ⟨g', hg', hsteps⟩ := steps_succ_eq_next_iff.mp h
  cases hshow.step.symm.trans hg'
  obtain ⟨hregs, -⟩ := hs
  rw [← hshow.cfg] at hregs hmode hframe
  have ht : BurstAt g t := steps_keep (BurstAt.step hregs hmode) (.start hshow.running hshow.cp hshow.port) hsteps
  obtain ⟨p, -, hsent, hadm⟩ := ht.of_ready hready
  have hlt : t.clock < g.clock + 2 ^ 32 := by
    have := s.clock_le_nextClock
    rw [hshow.clock]
    omega
  have hbound := hadm.mul_tPass_le hframe hshow.scanT0 hlt
  rw [hshow.tPass, hshow.scanDur] at hbound
  exact ⟨p, hbound, hsent.cells.trans hshow.cells, hshow.outputs_of_sent hsent⟩

/-! ### The last admitted pass of a timed run (42_scanner R115) -/

/-- A guard ends the burst, or admits a pass at its read. -/
theorem guard_ends_or_admits {u v : State} (hrun : Running u) (hcp : u.cp = .busy .guard) (hstep : step u = .next v) :
    v.cp = .ready ∨ (v.cp = .busy .drive ∧ u.passOverruns (BitVec.ofNat 32 v.clock) = false) := by
  rw [step_of_guard hrun hcp] at hstep
  rcases guardStep_cases u with ⟨-, hguard⟩ | ⟨hover, hguard⟩ <;> cases hguard.symm.trans hstep
  · exact .inl rfl
  · exact .inr ⟨rfl, hover⟩

section
variable {run : Nat → State} {ended : Nat → Nat} {n : Nat}

theorem timedRun_ended_le (h : TimedRun run ended n) {j k : Nat} (hjk : j ≤ k) (hk : k < n) : ended j ≤ ended k := by
  induction k, hjk using Nat.le_induction with
  | base => rfl
  | succ k _ ih =>
    obtain ⟨-, -, hmono⟩ := h k (by omega)
    exact (ih (by omega)).trans (hmono hk)

theorem timedRun_clock_le (h : TimedRun run ended n) {j k : Nat} (hjk : j ≤ k) (hk : k ≤ n) : (run j).clock ≤ (run k).clock := by
  induction k, hjk using Nat.le_induction with
  | base => rfl
  | succ k _ ih => exact (ih (by omega)).trans (step_clock_le (h k (by omega)).1)

theorem timedRun_burstAt (h : TimedRun run ended n) (hregs : registersOk (run 1).cfg = true) (hmode : (run 1).cfg.driveMode = .mux)
    (hstart : BurstAt (run 1) (run 1)) {k : Nat} (h1 : 1 ≤ k) (hk : k ≤ n) : BurstAt (run 1) (run k) := by
  induction k, h1 using Nat.le_induction with
  | base => exact hstart
  | succ k _ ih => exact (ih (by omega)).step hregs hmode (h k (by omega)).1

/-- A run with an admitted pass has a last one. -/
theorem exists_last_admitsPass (h : ∃ k, k < n ∧ AdmitsPass run k) :
    ∃ k, k < n ∧ AdmitsPass run k ∧ ∀ i, k < i → i < n → ¬ AdmitsPass run i := by
  have hfin : {k | k < n ∧ AdmitsPass run k}.Finite := (Set.finite_lt_nat n).subset fun _ hk => hk.1
  obtain ⟨k, ⟨hk, hadm⟩, hlast⟩ := Set.exists_max_image _ id hfin h
  exact ⟨k, hk, hadm, fun i hki hin hi => absurd (hlast i ⟨hin, hi⟩) (not_le.mpr hki)⟩

/-- Where no guard admits a pass any more, the one that comes ends the run. -/
theorem cp_ne_guard_after_last (h : TimedRun run ended n) {k : Nat} (hrun : ∀ i, k < i → i < n → Running (run i))
    (hbusy : ∀ i, 0 < i → i < n → (run i).cp ≠ .ready) (hlast : ∀ i, k < i → i < n → ¬ AdmitsPass run i) :
    ∀ i, k < i → i < n - 1 → (run i).cp ≠ .busy .guard := by
  intro i hki hin hcp
  rcases guard_ends_or_admits (hrun i hki (by omega)) hcp (h i (by omega)).1 with hend | ⟨hdrive, -⟩
  · exact hbusy (i + 1) (by omega) (by omega) hend
  · exact hlast i hki (by omega) ⟨hcp, hdrive⟩

end

/-- Settles O54: after the last admitted pass no guard comes but the one that ends the burst, so A_PASS bounds the last step by T_PASS
after that pass's guard read, which left T_PASS before DUR. -/
theorem burstEndsInTimeUnderAPass : Obligations.BurstEndsInTimeUnderAPass := by
  intro run ended n dur hs hrun hmode hcp hport htimed hapass hbusy hready hclock hadm j hj
  obtain ⟨k, hk, ⟨hguard, hdrive⟩, hlast⟩ := exists_last_admitsPass hadm
  obtain ⟨g, hshow⟩ := showStarts hrun hmode hcp hport
  have hfirst : step (run 0) = .next (run 1) := (htimed 0 (by omega)).1
  cases hshow.step.symm.trans hfirst
  obtain ⟨hregs, -⟩ := hs
  rw [← hshow.cfg] at hregs hmode
  have hat {i : Nat} (h1 : 1 ≤ i) (hi : i ≤ n) : ∃ frames, Sent (run 1) (run i) frames :=
    (timedRun_burstAt htimed hregs hmode (.start hshow.running hshow.cp hshow.port) h1 hi).sent
  have hk0 : 1 ≤ k := Nat.one_le_iff_ne_zero.mpr (by rintro rfl; cases hcp.symm.trans hguard)
  have hkn : k + 1 ≠ n := by rintro rfl; cases hready.symm.trans hdrive
  obtain ⟨frames, hsent⟩ := hat hk0 hk.le
  have hover : (run 1).passOverruns (BitVec.ofNat 32 (run (k + 1)).clock) = false := by
    rcases guard_ends_or_admits hsent.running hguard (htimed k hk).1 with hend | ⟨-, hover⟩
    · cases hend.symm.trans hdrive
    · exact hsent.passOverruns _ ▸ hover
  have hnoguard := cp_ne_guard_after_last htimed
    (fun i hki hi => (hat (by omega) hi.le).elim fun _ hsent => hsent.running) hbusy hlast
  have hend : ended (n - 1) ≤ (run (k + 1)).clock + (run 1).tPass :=
    tPass_congr hsent.cfg ▸ hapass k (n - 1) (by omega) (by omega) ⟨hguard, hdrive⟩ hnoguard (hlast _ (by omega) (by omega))
  have hstart := timedRun_clock_le htimed (Nat.zero_le 1) (by omega)
  have hadmitted := timedRun_clock_le htimed (show 1 ≤ k + 1 by omega) hk
  have hfinal := timedRun_clock_le htimed (show k + 1 ≤ n from hk) le_rfl
  have hroom := clock_add_tPass_le hshow.scanT0 hadmitted (by omega) hover
  rw [hshow.scanDur] at hroom
  calc ended j ≤ ended (n - 1) := timedRun_ended_le htimed (by omega) (by omega)
    _ ≤ (run (k + 1)).clock + (run 1).tPass := hend
    _ ≤ (run 1).clock + dur.toNat := hroom

end Sys2Proof.Machine

namespace Sys2Proof.Machine

/-! ### A burst under exact timing (42_scanner R114) -/

theorem nextClock_of_timeIn {s : State} {a : Nat} {ahead : List Nat} (h : s.timeIn = a :: ahead) : s.nextClock = s.clock + a := by
  simp [State.nextClock, State.nextAdvance, h]

theorem exactTiming_succ (cells tc m : Nat) : exactTiming cells tc (m + 1) = exactPass cells tc ++ exactTiming cells tc m := by
  simp [exactTiming, List.replicate_succ]

/-- In the burst whose first guard is `s`, the frame of cell `i` of pass `p` is due in `u` and not late: `u` has reached the clock at
which it begins at the earliest, with the advances `ahead` before the reads to come. -/
structure OnTime (s u : State) (p i : Nat) (ahead : List Nat) : Prop where
  sent : Sent s u (s.framesUpTo p i)
  clock : u.clock = s.earliest p i
  timeIn : u.timeIn = ahead

/-- The slice of cell `i` of pass `p` has begun in `u`, on time. -/
structure SliceOnTime (s u : State) (p i : Nat) (ahead : List Nat) : Prop where
  sent : Sent s u (s.framesUpTo p (i + 1))
  cp : u.cp = .busy (.slice (BitVec.ofNat 32 u.clock))
  scanI : u.scanI = i
  clock : u.clock = s.earliest p i
  timeIn : u.timeIn = ahead

/-- The block is about to drive cell `i`, or about to evaluate the guard where no cell is left. -/
def BeforeCell (s u : State) (i : Nat) : Prop :=
  (i < s.cfg.dispLen ∧ u.cp = .busy .drive ∧ u.scanI = i) ∨ (i = s.cfg.dispLen ∧ u.cp = .busy .guard)

/-- The last frame of a burst is sent, `p` passes of T_PASS after the clock of its first guard. -/
structure EndsOnTime (s t : State) (p : Nat) : Prop where
  sent : Sent s t (burstFrames s p)
  cp : t.cp = .ready
  drv : t.drv = .idle
  clock : t.clock = s.clock + p * s.tPass

/-- A slice ends with its first poll, T_CELL_MS after it began. -/
theorem SliceOnTime.poll {s u : State} {p i : Nat} {ahead : List Nat} (h : SliceOnTime s u p i (s.cfg.tCellMs.toNat :: ahead))
    (hi : i < s.cfg.dispLen) : ∃ v, step u = .next v ∧ OnTime s v p (i + 1) ahead ∧ BeforeCell s v (i + 1) := by
  obtain ⟨hsent, hcp, hscan, hclock, htime⟩ := h
  subst hscan
  have hnext := nextClock_of_timeIn htime
  have hdue : u.nextClock = s.earliest p (u.scanI + 1) := by rw [hnext, hclock, s.earliest_succ]
  have hover : u.cfg.tCellMs.toNat ≤ elapsed (BitVec.ofNat 32 u.clock) u.now := by
    rw [State.now, elapsed_ofNat_of_lt (by omega) (by omega), hnext, hsent.cfg]
    omega
  rw [step_of_slice hsent.running hcp]
  rcases sliceStep_cases (BitVec.ofNat 32 u.clock) u with ⟨hearly, -⟩ | ⟨-, hcell, hslice⟩ | ⟨-, hcell, hslice⟩
  · omega
  · exact ⟨_, hslice, ⟨(hsent.afterNow.setScanI _).setCp _, hdue, congrArg List.tail htime⟩, .inl ⟨hsent.cfg ▸ hcell, rfl, rfl⟩⟩
  · exact ⟨_, hslice, ⟨hsent.afterNow.setCp _, hdue, congrArg List.tail htime⟩, .inr ⟨le_antisymm hi (hsent.cfg ▸ hcell), rfl⟩⟩

section
variable {s : State} (hregs : registersOk s.cfg = true) (hmode : s.cfg.driveMode = .mux)
include hregs hmode

/-- A cell's frame takes no time. -/
theorem OnTime.drive {u : State} {p i : Nat} {ahead : List Nat} (h : OnTime s u p i (0 :: ahead)) (hi : i < s.cfg.dispLen)
    (hcp : u.cp = .busy .drive) (hscan : u.scanI = i) : ∃ v, step u = .next v ∧ SliceOnTime s v p i ahead := by
  obtain ⟨hsent, hclock, htime⟩ := h
  subst hscan
  refine ⟨_, hsent.step_drive hregs hmode hcp hi, s.framesUpTo_succ p _ ▸ (hsent.sendFrame _).afterNow.setCp _, rfl, rfl, ?_, ?_⟩
  · exact (nextClock_of_timeIn htime).trans hclock
  · exact congrArg List.tail htime

/-- The cells left of a pass take two steps each. -/
theorem OnTime.cells {p : Nat} {ahead : List Nat} (k : Nat) : ∀ {u : State} {i : Nat}, i + k = s.cfg.dispLen →
    OnTime s u p i ((List.replicate k [0, s.cfg.tCellMs.toNat]).flatten ++ ahead) → BeforeCell s u i →
    ∃ v, steps (2 * k) u = .next v ∧ OnTime s v p s.cfg.dispLen ahead ∧ v.cp = .busy .guard := by
  induction k with
  | zero =>
    rintro u i rfl h (⟨hi, -⟩ | ⟨-, hcp⟩)
    · omega
    · exact ⟨u, rfl, h, hcp⟩
  | succ k ih =>
    rintro u i hk h (⟨hi, hcp, hscan⟩ | ⟨hi, -⟩)
    · obtain ⟨w, hw, hslice⟩ := h.drive hregs hmode hi hcp hscan
      obtain ⟨v, hv, hdue, hbefore⟩ := hslice.poll hi
      obtain ⟨t, ht, hend⟩ := ih (by omega) hdue hbefore
      exact ⟨t, steps_succ_eq_next_iff.mpr ⟨w, hw, steps_succ_eq_next_iff.mpr ⟨v, hv, ht⟩⟩, hend⟩
    · omega

end

section
variable {s : State} (hframe : s.cfg.tFrameMs = 0) (ht0 : s.scanT0 = BitVec.ofNat 32 s.clock)
include hframe ht0

/-- A guard on time after `p` passes ends the burst exactly if a further pass does not fit into SCAN_DUR. -/
theorem passOverruns_earliest {p : Nat} (hlt : p * s.tPass < 2 ^ 32) :
    s.passOverruns (BitVec.ofNat 32 (s.earliest p 0)) = decide (s.scanDur.toNat < (p + 1) * s.tPass) := by
  rw [State.earliest_eq_tPass hframe, State.passOverruns, ht0, elapsed_ofNat_of_lt (by omega) (by omega), Nat.add_sub_cancel_left,
    Nat.succ_mul]

/-- The guard's comparison when it is evaluated on time. -/
theorem OnTime.passOverruns {u : State} {p : Nat} {ahead : List Nat} (h : OnTime s u p 0 (0 :: ahead)) (hlt : p * s.tPass < 2 ^ 32) :
    u.passOverruns u.now = decide (s.scanDur.toNat < (p + 1) * s.tPass) := by
  rw [h.sent.passOverruns, State.now, nextClock_of_timeIn h.timeIn, h.clock]
  exact passOverruns_earliest hframe ht0 hlt

/-- Where no further pass fits the guard ends the burst. -/
theorem OnTime.finish {u : State} {p : Nat} {ahead : List Nat} (h : OnTime s u p 0 (0 :: ahead)) (hcp : u.cp = .busy .guard)
    (hfits : p * s.tPass ≤ s.scanDur.toNat) (hover : s.scanDur.toNat < (p + 1) * s.tPass) :
    ∃ t, step u = .next t ∧ EndsOnTime s t p := by
  have hfull : u.passOverruns u.now = true := by
    rw [h.passOverruns hframe ht0 (by omega)]
    exact decide_eq_true hover
  obtain ⟨hsent, hclock, htime⟩ := h
  rw [step_of_guard hsent.running hcp]
  rcases guardStep_cases u with ⟨-, hguard⟩ | ⟨hover, -⟩
  · exact ⟨_, hguard, burstFrames_eq_framesUpTo s p ▸ hsent.afterNow.endBurst, rfl, rfl,
      (nextClock_of_timeIn htime).trans (hclock.trans (State.earliest_eq_tPass hframe p))⟩
  · cases hfull.symm.trans hover

variable (hregs : registersOk s.cfg = true) (hmode : s.cfg.driveMode = .mux)
include hregs hmode

/-- A pass that fits takes a step for the guard and two for each cell, and is followed by the next guard on time. -/
theorem OnTime.pass {u : State} {p : Nat} {ahead : List Nat}
    (h : OnTime s u p 0 (exactPass s.cfg.dispLen s.cfg.tCellMs.toNat ++ ahead)) (hcp : u.cp = .busy .guard)
    (hfits : (p + 1) * s.tPass ≤ s.scanDur.toNat) :
    ∃ v, steps (2 * s.cfg.dispLen + 1) u = .next v ∧ OnTime s v (p + 1) 0 ahead ∧ v.cp = .busy .guard := by
  have hlt : p * s.tPass < 2 ^ 32 := ((Nat.mul_le_mul_right _ p.le_succ).trans hfits).trans_lt s.scanDur.isLt
  have hadm : u.passOverruns u.now = false := by
    rw [h.passOverruns hframe ht0 hlt]
    simpa using hfits
  obtain ⟨hsent, hclock, htime⟩ := h
  rcases guardStep_cases u with ⟨hover, -⟩ | ⟨-, hguard⟩
  · cases hadm.symm.trans hover
  · have hdue : OnTime s ((u.afterNow.setScanI 0).setCp (.busy .drive)) p 0 _ :=
      ⟨(hsent.afterNow.setScanI 0).setCp _, (nextClock_of_timeIn htime).trans hclock, congrArg List.tail htime⟩
    obtain ⟨v, hv, ⟨hsent', hclock', htime'⟩, hcp'⟩ :=
      hdue.cells hregs hmode s.cfg.dispLen (Nat.zero_add _) (.inl ⟨dispLen_pos hregs, rfl, rfl⟩)
    exact ⟨v, steps_succ_eq_next_iff.mpr ⟨_, (step_of_guard hsent.running hcp).trans hguard, hv⟩,
      ⟨s.framesUpTo_dispLen p ▸ hsent', s.earliest_dispLen p ▸ hclock', htime'⟩, hcp'⟩

/-- From a guard on time after `p` passes, `m` more passes that fit and no further one. -/
theorem OnTime.burst {later : List Nat} (m : Nat) : ∀ {u : State} {p : Nat},
    OnTime s u p 0 (exactTiming s.cfg.dispLen s.cfg.tCellMs.toNat m ++ later) → u.cp = .busy .guard →
    (p + m) * s.tPass ≤ s.scanDur.toNat → s.scanDur.toNat < (p + m + 1) * s.tPass →
    ∃ t, steps (m * (2 * s.cfg.dispLen + 1) + 1) u = .next t ∧ EndsOnTime s t (p + m) := by
  induction m with
  | zero =>
    intro u p h hcp hfits hover
    obtain ⟨t, ht, hend⟩ := h.finish hframe ht0 hcp hfits hover
    exact ⟨t, steps_succ_eq_next_iff.mpr ⟨t, ht, by simp [steps]⟩, hend⟩
  | succ m ih =>
    intro u p h hcp hfits hover
    rw [exactTiming_succ, List.append_assoc] at h
    have hfits' : (p + 1) * s.tPass ≤ s.scanDur.toNat := (Nat.mul_le_mul_right _ (by omega)).trans hfits
    obtain ⟨v, hv, hdue, hcp'⟩ := h.pass hframe ht0 hregs hmode hcp hfits'
    have hsum : p + (m + 1) = p + 1 + m := by omega
    rw [hsum] at hfits hover ⊢
    obtain ⟨t, ht, hend⟩ := ih hdue hcp' hfits hover
    refine ⟨t, ?_, hend⟩
    rw [Nat.succ_mul, Nat.add_right_comm, Nat.add_comm, steps_add _ hv, ht]

end

theorem tPass_pos {s : State} (hregs : registersOk s.cfg = true) : 0 < s.tPass := by
  obtain ⟨-, -, -, -, -, htc⟩ := registersOk_iff.mp hregs
  exact Nat.mul_pos (dispLen_pos hregs) (by omega)

theorem length_burstFrames (s : State) (p : Nat) : (burstFrames s p).length = p * s.cfg.dispLen + 1 := by
  simp [burstFrames, passFrames]

/-- Settles O26: SHOW's first guard is on time, and so is each of the passes that fit into DUR. -/
theorem exactTimingPassCount : Obligations.ExactTimingPassCount := by
  intro s dur first p later hs hrun hmode hcp hframe hport hp htime
  obtain ⟨g, hshow⟩ := showStarts hrun hmode hcp hport
  obtain ⟨hregs, -⟩ := hs
  have hfits : p * s.tPass ≤ dur.toNat := hp ▸ Nat.div_mul_le_self _ _
  have hover : dur.toNat < (p + 1) * s.tPass := by
    rw [hp, Nat.mul_comm]
    exact Nat.lt_mul_div_succ _ (tPass_pos hregs)
  have hstart : OnTime g g 0 0 (exactTiming g.cfg.dispLen g.cfg.tCellMs.toNat p ++ later) := by
    refine ⟨.start hshow.running hshow.port, g.earliest_zero.symm, ?_⟩
    rw [hshow.timeIn, htime, hshow.cfg, List.tail_cons]
  have hclock : g.clock = s.clock + first := hshow.clock.trans (nextClock_of_timeIn htime)
  rw [← hshow.cfg] at hregs hmode hframe
  obtain ⟨t, ht, hend⟩ := hstart.burst hframe hshow.scanT0 hregs hmode p hshow.cp (by simpa [hshow.tPass, hshow.scanDur] using hfits)
    (by simpa [hshow.tPass, hshow.scanDur] using hover)
  rw [Nat.zero_add] at hend
  refine ⟨t, s.leadingFrames ++ burstFrames s p, ?_, hend.cp, hend.drv, hend.sent.cells.trans hshow.cells, rfl,
    hshow.outputs_of_sent hend.sent, ?_, ?_, hfits⟩
  · rw [Nat.add_comm, ← hshow.cfg]
    exact steps_succ_eq_next_iff.mpr ⟨g, hshow.step, ht⟩
  · rw [List.length_append, s.length_leadingFrames, length_burstFrames, Nat.add_comm]
  · rw [hend.clock, hclock, hshow.tPass]

end Sys2Proof.Machine

namespace Sys2Proof.Machine

/-! ### The static frame (43_static R121, R122) -/

@[simp] theorem State.length_staticFrame (s : State) : s.staticFrame.length = s.cfg.dispLen := by simp [State.staticFrame]

/-- From its end on the static frame is the buffer from cell 0 on. -/
theorem State.getElem?_reverse_staticFrame {s : State} {a : Nat} (ha : a < s.cfg.dispLen) :
    s.staticFrame.reverse[a]? = some (s.cell a) := by simp [State.staticFrame, ha]

theorem frameEvents_clearFrameStatic (s : State) : frameEvents s.cfg.bitOrder s.clearFrameStatic =
    List.replicate s.cfg.dispLen (Event.emit s.blank s.cfg.bitOrder) ++ [Event.latch] := by
  simp [frameEvents, State.clearFrameStatic]

/-! ### Output commands in STATIC mode (43_static R123 to R125) -/

section
variable {s : State} (hmode : s.cfg.driveMode = .static)
include hmode

theorem exec_update_static : exec .update s = .next (updateStatic s) := by simp only [exec, execUpdate, hmode]

theorem exec_clear_static : exec .clear s = .next (clearStatic s) := by simp only [exec, execClear, hmode]

theorem exec_showFor_static (dur : Word32) : exec (.showFor dur) s = .next (startHold dur s) := by
  simp only [exec, execShow, hmode]

/-- SHOW in STATIC mode, alone on the port, begins a hold. -/
theorem step_of_show_static {dur : Word32} (hrun : Running s) (hcp : s.cp = .ready) (hport : s.port = encode (.showFor dur)) :
    step s = .next (startHold dur (s.setPort [])) := by
  have hdec : decode s.port = .cmd (.showFor dur) [] := by simpa [hport] using decode_encode (.showFor dur) [] rfl
  rw [(stepRunsTheDecodedCommand s _ [] hrun).1 hcp hdec]
  exact exec_showFor_static (s := s.setPort []) hmode dur

end

/-- Settles O19: UPDATE sends the static frame, whose reverse is the buffer; in MUX mode its meaning is the same state. -/
theorem updateSendsTheBuffer : Obligations.UpdateSendsTheBuffer := by
  intro s
  refine ⟨fun hmode => ⟨s.staticFrame, exec_update_static hmode, s.length_staticFrame, fun a ha => ?_⟩, fun hmode => ?_⟩
  · have hrev := State.getElem?_reverse_staticFrame ha
    rwa [List.getElem?_reverse (by simpa using ha), s.length_staticFrame] at hrev
  · simp only [exec, execUpdate, hmode]

/-! ### The hold of a static SHOW (43_static R124, 42_scanner R109) -/

section
variable {s : State} {t0 dur : Word32} (hrun : Running s) (hcp : s.cp = .busy (.hold t0 dur))
include hrun hcp

theorem step_of_hold : step s = holdStep t0 dur s := by simp [step_of_running hrun, run, hcp]

theorem step_of_hold_early (hearly : elapsed t0 s.now < dur.toNat) : step s = .next s.afterNow :=
  (step_of_hold hrun hcp).trans (if_neg (not_le.mpr hearly))

theorem step_of_hold_past (hpast : dur.toNat ≤ elapsed t0 s.now) :
    step s = .next ((s.afterNow.sendFrame s.clearFrameStatic).setCp .ready) :=
  (step_of_hold hrun hcp).trans (if_pos hpast)

end

/-- Settles O55: the two answers of a poll, told apart by the time. -/
theorem holdWaitsThenClears : Obligations.HoldWaitsThenClears := by
  intro s t0 dur hrun hcp
  refine ⟨step_of_hold_early hrun hcp, fun hpast => ⟨_, step_of_hold_past hrun hcp hpast, ?_, rfl⟩⟩
  exact congrArg (s.trace ++ [Event.now s.now] ++ ·) (frameEvents_clearFrameStatic s)

@[simp] theorem startHold_clearFrameStatic (dur : Word32) (s : State) : (startHold dur s).clearFrameStatic = s.clearFrameStatic := rfl

@[simp] theorem State.setPort_now (s : State) (bs : List Byte) : (s.setPort bs).now = s.now := rfl

theorem outputs_startHold (dur : Word32) (s : State) :
    outputs (startHold dur s).trace = outputs s.trace ++ frameEvents s.cfg.bitOrder s.staticFrame := by
  rw [startHold_trace, outputs_append, outputs_append, outputs_frameEvents, outputs_now, List.append_nil]

theorem outputs_afterNow (s : State) : outputs s.afterNow.trace = outputs s.trace := by
  rw [State.afterNow_trace, outputs_append, outputs_now, List.append_nil]

section
variable {s : State} {first held : Nat} {later : List Nat} (htime : s.timeIn = first :: held :: later)
include htime

/-- The hold of a SHOW begins at its first read. -/
theorem startHold_cp_of_timeIn (dur : Word32) : (startHold dur s).cp = .busy (.hold (BitVec.ofNat 32 (s.clock + first)) dur) := by
  rw [startHold_cp, State.now, nextClock_of_timeIn htime]

/-- The hold's first poll is the second read. -/
theorem startHold_now_of_timeIn (dur : Word32) : (startHold dur s).now = BitVec.ofNat 32 (s.clock + first + held) := by
  have hnext : (startHold dur s).timeIn = held :: later := by rw [startHold_timeIn, htime, List.tail_cons]
  rw [State.now, nextClock_of_timeIn hnext, startHold_clock, nextClock_of_timeIn htime]

theorem elapsed_startHold (dur : Word32) (hheld : held < 2 ^ 32) :
    elapsed (BitVec.ofNat 32 (s.clock + first)) (startHold dur s).now = held := by
  rw [startHold_now_of_timeIn htime, elapsed_ofNat_of_lt (by omega) (by omega), Nat.add_sub_cancel_left]

end

/-- Settles O29: SHOW begins the hold, and its first poll finds exactly the chosen time elapsed. -/
theorem staticShowHoldsThenClears : Obligations.StaticShowHoldsThenClears := by
  intro s dur first held later hrun hmode hcp hport htime hheld
  have hshow := step_of_show_static hmode hrun hcp hport
  have hrun' : Running (startHold dur (s.setPort [])) := hrun
  have hhold := startHold_cp_of_timeIn (s := s.setPort []) htime dur
  have hpoll := elapsed_startHold (s := s.setPort []) htime dur hheld
  refine ⟨fun hpast => ?_, fun hearly => ?_⟩
  · have hclear := step_of_hold_past hrun' hhold (hpast.trans_eq hpoll.symm)
    refine ⟨_, steps_succ_eq_next_iff.mpr ⟨_, hshow, steps_succ_eq_next_iff.mpr ⟨_, hclear, rfl⟩⟩, by simp, by simp, by simp, ?_⟩
    have hfirst : s.now = BitVec.ofNat 32 (s.clock + first) := by rw [State.now, nextClock_of_timeIn htime]
    simp [startHold_now_of_timeIn (s := s.setPort []) htime, hfirst]
  · have hwait := step_of_hold_early hrun' hhold (hpoll.trans_lt hearly)
    refine ⟨_, steps_succ_eq_next_iff.mpr ⟨_, hshow, steps_succ_eq_next_iff.mpr ⟨_, hwait, rfl⟩⟩, hhold, ?_⟩
    exact (outputs_afterNow _).trans (outputs_startHold dur (s.setPort []))

/-! ### What the chain shows after a frame (43_static R126, R127) -/

theorem foldl_chainEvent_emits (order : BitOrder) (bytes : List Byte) : ∀ v : ChainView,
    (bytes.map (fun b => Event.emit b order)).foldl chainEvent v = { v with pending := v.pending ++ bytes } := by
  induction bytes with
  | nil => simp
  | cons b bs ih =>
    intro v
    rw [List.map_cons, List.foldl_cons, ih]
    simp [chainEvent]

/-- A frame sent after complete frames is the last one. -/
theorem framesOf_append_frameEvents {tr : List Event} (hpend : (chainView tr).pending = []) (order : BitOrder) (bytes : List Byte) :
    framesOf (tr ++ frameEvents order bytes) = framesOf tr ++ [bytes] := by
  simp [framesOf, frameEvents, chainView_append, foldl_chainEvent_emits, chainEvent, hpend]

theorem displayed_sendFrame {s : State} (hpend : (chainView s.trace).pending = []) (bytes : List Byte) :
    (s.sendFrame bytes).displayed = bytes := by
  simp [State.displayed, framesOf_append_frameEvents hpend]

theorem displayed_congr {s t : State} (htrace : t.trace = s.trace) : t.displayed = s.displayed := by
  simp only [State.displayed, htrace]

/-- Settles O45: a write leaves the trace as it is; UPDATE's frame is the last one, and read from its end it is the buffer. -/
theorem displayFollowsUpdateNotWrites : Obligations.DisplayFollowsUpdateNotWrites := by
  intro s hpend hmode
  refine ⟨fun i sec t hsec hexec => ?_, fun t hexec => ?_⟩
  · obtain ⟨-, htrace, -⟩ := writesStayInTheirSection s t i sec hsec hexec
    exact displayed_congr htrace
  · cases (exec_update_static hmode).symm.trans hexec
    have hdisp : (updateStatic s).displayed = s.staticFrame := displayed_sendFrame hpend _
    exact ⟨hdisp, fun a ha => hdisp ▸ State.getElem?_reverse_staticFrame ha⟩

/-! ### The registers of the scan, unread in STATIC mode (43_static R129) -/

/-- The registers that only the multiplexed scan reads. -/
structure ScanRegisters where
  sel         : List Byte
  selNone     : Byte
  swapped     : Bool
  clearBefore : Bool
  tCellMs     : BitVec 16
  tFrameMs    : BitVec 16

/-- The state with other values in those registers. -/
def State.withScan (x : ScanRegisters) (s : State) : State :=
  { s with cfg := { s.cfg with
      sel := x.sel, selNone := x.selNone, swapped := x.swapped, clearBefore := x.clearBefore, tCellMs := x.tCellMs,
      tFrameMs := x.tFrameMs } }

/-- The outcome with other values in those registers of its state, if it has one. -/
def outcomeWithScan (x : ScanRegisters) : Outcome → Outcome
  | .next t => .next (t.withScan x)
  | .fault r => .fault r
  | .refused r => .refused r

section
variable (x : ScanRegisters)

theorem writeCell_withScan (a : Nat) (v : Byte) (s : State) :
    writeCell a v (s.withScan x) = outcomeWithScan x (writeCell a v s) := by
  by_cases ha : a < s.cfg.dispLen
  · rw [writeCell_next ha]
    exact writeCell_next ha
  · simp only [writeCell, ha, if_false]
    exact if_neg ha

theorem writeRun_withScan (vs : List Byte) : ∀ (a : Nat) (s : State),
    writeRun a vs (s.withScan x) = outcomeWithScan x (writeRun a vs s) := by
  induction vs with
  | nil => exact fun _ _ => rfl
  | cons v vs ih =>
    intro a s
    simp only [writeRun, writeCell_withScan]
    cases writeCell a v s with
    | next t => exact ih (a + 1) t
    | fault r => rfl
    | refused r => rfl

/-- Write commands read none of these registers in either mode. -/
theorem exec_write_withScan {i : Instr} {sec : BitVec 4} (hsec : writeSection i = some sec) (s : State) :
    exec i (s.withScan x) = outcomeWithScan x (exec i s) := by
  rcases exec_write_cases s hsec with ⟨r, hr, hpass, hexec⟩ | ⟨hfail, hexec⟩
  · rw [hexec, ← writeRun_withScan]
    exact exec_of_checkPasses (s := s.withScan x) hsec hr hpass
  · rw [hexec]
    exact exec_of_addressFails ((addressFails_congr rfl).mpr hfail)

theorem holdStep_withScan (t0 dur : Word32) (s : State) :
    holdStep t0 dur (s.withScan x) = outcomeWithScan x (holdStep t0 dur s) := by
  rcases holdStep_cases t0 dur s with ⟨hearly, hstep⟩ | ⟨hpast, hstep⟩ <;> rw [hstep]
  · exact if_neg (not_le.mpr hearly)
  · exact if_pos hpast

variable {s : State} (hmode : s.cfg.driveMode = .static)
include hmode

theorem exec_withScan (i : Instr) : exec i (s.withScan x) = outcomeWithScan x (exec i s) := by
  have hmode' : (s.withScan x).cfg.driveMode = .static := hmode
  cases i with
  | wsec sec codes => exact exec_write_withScan x rfl s
  | wcell sec idx code => exact exec_write_withScan x rfl s
  | sdot sec idx on => exact exec_write_withScan x rfl s
  | wchr sec chars => exact exec_write_withScan x rfl s
  | showFor dur =>
    rw [exec_showFor_static hmode, exec_showFor_static hmode']
    rfl
  | update =>
    rw [exec_update_static hmode, exec_update_static hmode']
    rfl
  | clear =>
    rw [exec_clear_static hmode, exec_clear_static hmode']
    rfl

theorem accept_withScan (got : List Byte) : accept got (s.withScan x) = outcomeWithScan x (accept got s) := by
  have hport : (s.withScan x).port = s.port := rfl
  simp only [accept, hport]
  cases decode (got ++ s.port) with
  | cmd i rest => exact exec_withScan x (s := (s.setPort rest).setCp .ready) hmode i
  | more => rfl
  | reservedOpcode => rfl
  | reservedField => rfl

end

section
variable {s : State} (hok : s.cpOk = true) (hmode : s.cfg.driveMode = .static)
include hok hmode

/-- The only output command in progress in STATIC mode is a hold (10_state R29, R30). -/
theorem accepts_or_hold_of_static : (∃ got, s.Accepts got) ∨ ∃ t0 dur, s.cp = .busy (.hold t0 dur) := by
  rcases accepts_or_outputBusy s with hacc | ⟨a, hcp, hout⟩
  · exact .inl hacc
  · cases a with
    | payload got => exact absurd rfl (hout got)
    | guard => simp [cpOk_guard hcp, hmode] at hok
    | drive => simp [cpOk_drive hcp, hmode] at hok
    | slice t0 => simp [cpOk_slice hcp, hmode] at hok
    | hold t0 dur => exact .inr ⟨t0, dur, hcp⟩

theorem drv_of_static : s.drv = .idle := by
  rcases accepts_or_hold_of_static hok hmode with ⟨got, hacc⟩ | ⟨t0, dur, hcp⟩
  · exact drv_of_accepts hok hacc
  · exact ((cpOk_hold hcp).mp hok).1

theorem run_withScan (x : ScanRegisters) : run (s.withScan x) = outcomeWithScan x (run s) := by
  rcases accepts_or_hold_of_static hok hmode with ⟨got, hacc⟩ | ⟨t0, dur, hcp⟩
  · rw [run_of_accepts hacc, run_of_accepts (s := s.withScan x) hacc]
    exact accept_withScan x hmode got
  · have hcp' : (s.withScan x).cp = .busy (.hold t0 dur) := hcp
    simp only [run, hcp, hcp']
    exact holdStep_withScan x t0 dur s

theorem step_withScan (hrun : Running s) (x : ScanRegisters) : step (s.withScan x) = outcomeWithScan x (step s) := by
  rw [step_of_running hrun, step_of_running (s := s.withScan x) hrun]
  exact run_withScan hok hmode x

end

/-- A step in STATIC mode leaves DRV IDLE. -/
theorem drv_of_step_static {s t : State} (hs : s.Inv) (hrun : Running s) (hmode : s.cfg.driveMode = .static) (h : step s = .next t) :
    t.drv = .idle := by
  obtain ⟨hcfg, -⟩ := configurationIsReadOnly s t hrun h
  obtain ⟨-, -, -, hok⟩ := everyStepKeepsTheInvariant s t hs h
  exact drv_of_static hok (hcfg ▸ hmode)

/-- Settles O30: in STATIC mode the block accepts bytes or polls a hold, and neither reads the registers of the scan. -/
theorem staticModeIgnoresScanRegisters : Obligations.StaticModeIgnoresScanRegisters := by
  intro s t sel selNone swapped clearBefore tCell tFrame hs hrun hmode other
  have hdrv : step s = .next t → t.drv = .idle := drv_of_step_static hs hrun hmode
  obtain ⟨-, -, -, hok⟩ := hs
  have hstep := step_withScan hok hmode hrun ⟨sel, selNone, swapped, clearBefore, tCell, tFrame⟩
  exact ⟨fun h => ⟨hdrv h, hstep.trans (congrArg _ h)⟩, fun r h => hstep.trans (congrArg _ h)⟩

end Sys2Proof.Machine

namespace Sys2Proof.Machine

/-! ### Decimal digits (47_host_formatting R132) -/

/-- The values of the decimal digits of `n`, most significant first; `decimalDigits` writes these (`decimalDigits_eq`). -/
def digitValues (n : Nat) : List Nat := if n = 0 then [0] else (Nat.digits 10 n).reverse

/-- With enough fuel the model's digits are the library's. -/
theorem digitsOnto_eq : ∀ {fuel n : Nat} (acc : Text), 0 < n → n < 2 ^ fuel →
    digitsOnto fuel n acc = (Nat.digits 10 n).reverse.map digitChar ++ acc
  | 0, n, _, hpos, hlt => absurd hlt (by omega)
  | fuel + 1, n, acc, hpos, hlt => by
    rw [digitsOnto, Nat.digits_def' (by decide) hpos]
    split
    · next hlast => simp [hlast]
    · next hmore => simp [digitsOnto_eq (fuel := fuel) (n := n / 10) _ (by omega) (by omega)]

theorem decimalDigits_eq (n : Nat) : decimalDigits n = (digitValues n).map digitChar := by
  rcases Nat.eq_zero_or_pos n with rfl | hpos
  · rfl
  · rw [decimalDigits, digitsOnto_eq [] hpos Nat.lt_log2_self, digitValues, if_neg hpos.ne', List.append_nil]

theorem lt_ten_of_mem_digitValues {n d : Nat} (h : d ∈ digitValues n) : d < 10 := by
  unfold digitValues at h
  split at h
  · rw [List.mem_singleton.mp h]
    decide
  · exact Nat.digits_lt_base (by decide) (List.mem_reverse.mp h)

theorem length_digitValues_le {n k : Nat} (hk : 1 ≤ k) (h : n < 10 ^ k) : (digitValues n).length ≤ k := by
  unfold digitValues
  split
  · exact hk
  · rw [List.length_reverse]
    exact (Nat.digits_length_le_iff (by decide) n).mpr h

theorem numberOf_eq_ofDigits (ds : List Nat) : numberOf ds = Nat.ofDigits 10 ds.reverse := by
  rw [Nat.ofDigits_eq_foldr, List.foldr_reverse, numberOf]
  simp [add_comm]

theorem numberOf_digitValues (n : Nat) : numberOf (digitValues n) = n := by
  rw [numberOf_eq_ofDigits]
  unfold digitValues
  split
  · next hzero => simp [hzero]
  · rw [List.reverse_reverse, Nat.ofDigits_digits]

/-- Zeros in front do not change the number. -/
theorem numberOf_replicate_zero_append (k : Nat) (ds : List Nat) : numberOf (List.replicate k 0 ++ ds) = numberOf ds := by
  simp [numberOf_eq_ofDigits, Nat.ofDigits_append]

theorem toNat_digitChar {d : Nat} (h : d < 10) : (digitChar d).toNat = 0x30 + d := by
  rw [digitChar, BitVec.toNat_ofNat]
  omega

theorem minusChar_notMem_decimalDigits (n : Nat) : minusChar ∉ decimalDigits n := by
  rw [decimalDigits_eq, List.mem_map]
  rintro ⟨d, hd, hminus⟩
  have hval : 0x30 + d = 0x2D := toNat_digitChar (lt_ten_of_mem_digitValues hd) ▸ congrArg BitVec.toNat hminus
  omega

theorem formatInt_natCast (v : Nat) : formatInt v = decimalDigits v := rfl

theorem formatInt_neg {v : Nat} (h : 1 ≤ v) : formatInt (-(v : Int)) = minusChar :: decimalDigits v := by
  rw [formatInt, if_pos (by omega), Int.natAbs_neg, Int.natAbs_natCast, List.singleton_append]

/-! ### Laid-out windows (47_host_formatting R138, R139, R142) -/

@[simp] theorem length_layout_cells (chars : List CharCell) (w : Nat) (a : Align) (d : Option Nat) (lz : Bool) :
    (layout chars w a d lz).cells.length = w := by simp [layout]

/-- Without a point, a window is ok exactly if it holds all characters. -/
theorem layout_ok_of_no_point (chars : List CharCell) (w : Nat) (a : Align) (lz : Bool) :
    (layout chars w a none lz).ok = decide (chars.length ≤ w) := by simp [layout, pointPosition]

@[simp] theorem length_plainCells (t : Text) : (plainCells t).length = t.length := List.length_map _

theorem plainCells_append (t u : Text) : plainCells (t ++ u) = plainCells t ++ plainCells u := List.map_append

theorem windowCell_of_lt_left {chars : List CharCell} {left : Int} {p : Nat} (h : (p : Int) < left) :
    windowCell chars left false p = { ch := spaceChar, dot := false } := by
  rw [windowCell, if_neg (by omega), if_neg (by simp)]

theorem windowCell_of_eq_add {chars : List CharCell} {left : Int} {lz : Bool} {p k : Nat} (hk : k < chars.length)
    (hp : (p : Int) = left + k) : windowCell chars left lz p = chars[k] := by
  have hplace : (p : Int) - left = k := by omega
  rw [windowCell, hplace, if_pos (by omega), Int.toNat_natCast, List.getD_eq_getElem _ _ hk]

theorem getElem_layout_of_no_point {chars : List CharCell} {w p : Nat} {a : Align} {lz : Bool}
    (hp : p < (layout chars w a none lz).cells.length) : (layout chars w a none lz).cells[p] =
      windowCell chars (leftEdge a chars.length w) (lz && decide (a = .right)) p := by simp [layout, pointPosition]

/-- A right-aligned text that fits: blanks, then its characters. -/
theorem layout_right_of_fits {t : Text} {w : Nat} (hfit : t.length ≤ w) :
    layout (plainCells t) w .right none false =
      { cells := plainCells (List.replicate (w - t.length) spaceChar ++ t), ok := true } := by
  have hcells : (layout (plainCells t) w .right none false).cells = plainCells (List.replicate (w - t.length) spaceChar ++ t) := by
    refine List.ext_getElem (by simp [hfit]) fun p hp _ => ?_
    have hw : p < w := by simpa using hp
    rw [getElem_layout_of_no_point, Bool.false_and, leftEdge, length_plainCells]
    by_cases hblank : p < w - t.length
    · rw [windowCell_of_lt_left (by omega)]
      simp [plainCells, hblank]
    · rw [windowCell_of_eq_add (k := p - (w - t.length)) (by rw [length_plainCells]; omega) (by omega)]
      simp [plainCells, List.getElem_append_right, Nat.not_lt.mp hblank]
  have hok : (layout (plainCells t) w .right none false).ok = true := by simpa [layout_ok_of_no_point] using hfit
  rw [← hcells, ← hok]

/-! ### Integers in a window (40_encoder R91; 47_host_formatting R132, R138, R142) -/

theorem enc_space : enc referenceGlyphs { ch := spaceChar, dot := false } = 0x00 := by decide +kernel

/-- Written digits decode to their values. -/
theorem filterMap_decodeDigit_plainCells {ds : List Nat} (h : ∀ d ∈ ds, d < 10) :
    (plainCells (ds.map digitChar)).filterMap (fun x => decodeDigit referenceGlyphs (enc referenceGlyphs x)) = ds := by
  rw [plainCells, List.map_map, List.filterMap_map]
  conv_rhs => rw [← List.filterMap_some (l := ds)]
  refine List.filterMap_congr fun d hd => ?_
  exact (decodeDigit_enc _ _).trans (decodeDigit_glyphOf_digitChar d (h d hd))

/-- Settles O49: the window is blanks and the written digits, which decode to the digits of the integer. -/
theorem rightAlignedIntegersRoundTrip : Obligations.RightAlignedIntegersRoundTrip := by
  intro v w hfit
  have hwin := layout_right_of_fits hfit
  have hblanks : (plainCells (List.replicate (w - (formatInt v).length) spaceChar)).length = w - (formatInt v).length := by simp
  refine ⟨congrArg Window.ok hwin, length_layout_cells .., ?_, ?_⟩
  · rw [hwin, plainCells_append, List.take_left' hblanks]
    intro x hx
    rw [plainCells, List.map_replicate] at hx
    rw [List.eq_of_mem_replicate hx, enc_space]
  · rw [hwin, plainCells_append, List.drop_left' hblanks, formatInt_natCast, decimalDigits_eq,
      filterMap_decodeDigit_plainCells fun d => lt_ten_of_mem_digitValues, numberOf_digitValues]

/-- Settles O50: the text is the minus and the digits, laid out right where it fits and reported where it does not. -/
theorem negativeIntegersShowOneMinus : Obligations.NegativeIntegersShowOneMinus := by
  intro v w hv digits win
  have hlen : (minusChar :: digits).length = digits.length + 1 := rfl
  have hwin : win = layout (plainCells (minusChar :: digits)) w .right none false := by simp only [win, formatInt_neg hv, digits]
  refine ⟨fun hfit => ⟨?_, minusChar_notMem_decimalDigits v⟩, fun hover => ?_⟩
  · rw [hwin, layout_right_of_fits hfit, hlen, Nat.sub_sub]
  · rw [hwin, layout_ok_of_no_point, length_plainCells, hlen, decide_eq_false (by omega)]

/-! ### Reals in (-1, 0) (47_host_formatting R135, R136) -/

theorem replicate_zeroChar_append_decimalDigits (k n : Nat) :
    List.replicate k zeroChar ++ decimalDigits n = (List.replicate k 0 ++ digitValues n).map digitChar := by
  rw [List.map_append, List.map_replicate, ← decimalDigits_eq]
  rfl

/-- Digit characters less the character `0` are the digits. -/
theorem map_toNat_digitChar {ds : List Nat} (h : ∀ d ∈ ds, d < 10) :
    (ds.map digitChar).map (fun ch => ch.toNat - 0x30) = ds := by
  rw [List.map_map]
  refine (List.map_congr_left fun d hd => ?_).trans (List.map_id ds)
  simp [toNat_digitChar (h d hd)]

/-- With at most N digits, the first of the zeros that R135 pads to N + 1 is the one before the point. -/
theorem formatReal_of_neg {x : Rat} {n : Fin 10} (hn : 1 ≤ n.val) (hneg : roundHalfAway (x * (10 ^ n.val : Nat)) < 0)
    (hfit : (decimalDigits (roundHalfAway (x * (10 ^ n.val : Nat))).natAbs).length ≤ n.val) :
    let digits := decimalDigits (roundHalfAway (x * (10 ^ n.val : Nat))).natAbs
    formatReal x n =
      { chars := minusChar :: zeroChar :: (List.replicate (n.val - digits.length) zeroChar ++ digits), point := some n.val } := by
  intro digits
  rw [formatReal, if_neg (by omega)]
  simp only [if_pos hneg, Nat.succ_sub hfit, List.replicate_succ, List.cons_append, List.nil_append, digits]

/-- Settles O51: |m| < 10^N has at most N digits, which the zeros fill up to N. -/
theorem smallNegativeRealsKeepTheirZero : Obligations.SmallNegativeRealsKeepTheirZero := by
  intro x n hn _ _ m hneg hlow frac
  have hlt : m.natAbs < 10 ^ n.val := by zify; rw [abs_of_neg hneg]; omega
  have hvals : frac = (List.replicate (n.val - (decimalDigits m.natAbs).length) 0 ++ digitValues m.natAbs).map digitChar :=
    replicate_zeroChar_append_decimalDigits ..
  have hlen : (decimalDigits m.natAbs).length ≤ n.val := by
    rw [decimalDigits_eq, List.length_map]
    exact length_digitValues_le hn hlt
  have hdigit : ∀ d ∈ List.replicate (n.val - (decimalDigits m.natAbs).length) 0 ++ digitValues m.natAbs, d < 10 := by
    intro d hd
    rcases List.mem_append.mp hd with hzero | hval
    · exact List.eq_of_mem_replicate hzero ▸ by decide
    · exact lt_ten_of_mem_digitValues hval
  refine ⟨formatReal_of_neg hn hneg hlen, ?_, ?_, ?_⟩
  · rw [List.length_append, List.length_replicate, Nat.sub_add_cancel hlen]
  · rw [hvals, List.forall_mem_map]
    intro d hd
    have hten := hdigit d hd
    rw [toNat_digitChar hten]
    omega
  · rw [hvals, map_toNat_digitChar hdigit, numberOf_replicate_zero_append, numberOf_digitValues]

/-! ### Value-setting calls (47_host_formatting R145 to R148) -/

theorem hostCommand_sends_wchr {c : HostCall} (hc : ∀ sec codes, c ≠ .setRaw sec codes) (w : Nat) :
    ∃ chars, (hostCommand c w).sent = some (.wchr (BitVec.ofNat 4 c.section) chars) ∧ chars.length = w := by
  cases c with
  | setRaw sec codes => exact absurd rfl (hc sec codes)
  | setInt | setReal | setChar | setText | setChars => exact ⟨_, rfl, length_layout_cells ..⟩

/-- A section's index fits the packet's field (10_state R19). -/
theorem section_index_lt {s : State} (h : registersOk s.cfg = true) {k : Nat} {r : Section} (hr : s.cfg.sections[k]? = some r) :
    k < 2 ^ 4 := by
  obtain ⟨-, htable, htotal, ⟨hdisp, hmax⟩, -⟩ := registersOk_iff.mp h
  have hcount := length_le_sectionsLength htable
  have hk : k < s.cfg.sections.length := (List.getElem?_eq_some_iff.mp hr).1
  omega

/-- Settles O52: a layout has the length of its section, whose index the 4-bit field holds. -/
theorem hostWindowFitsItsSection : Obligations.HostWindowFitsItsSection := by
  refine fun s c hregs => ⟨fun r hc hr => ?_, fun hinvalid => ?_⟩
  · obtain ⟨chars, hsent, hlen⟩ := hostCommand_sends_wchr hc r.len
    have hsec : (BitVec.ofNat 4 c.section).toNat = c.section := Nat.mod_eq_of_lt (section_index_lt hregs hr)
    exact ⟨_, chars, by rw [hostCall, hr]; exact hsent, hsec, hlen, secOk_iff.mpr ⟨r, hsec.symm ▸ hr, hlen⟩⟩
  · rw [hostCall, List.getElem?_eq_none hinvalid]

end Sys2Proof.Machine

namespace Sys2Proof.Machine

/-! ### Commands complete or begin their output (60_exceptions R149, R150) -/

/-- An output command looks at the drive mode and at nothing that may be missing. -/
theorem exec_output_completes {i : Instr} (hsec : writeSection i = none) (s : State) : ∃ t, exec i s = .next t := by
  cases i with
  | wsec | wcell | sdot | wchr => cases hsec
  | showFor dur => cases hmode : s.cfg.driveMode <;> simp [exec, execShow, hmode]
  | update => cases hmode : s.cfg.driveMode <;> simp [exec, execUpdate, hmode]
  | clear => cases hmode : s.cfg.driveMode <;> simp [exec, execClear, hmode]

/-- Settles O40: a write command stores its bytes or is a noop, since the cells of a section exist; an output command answers in either
drive mode. -/
theorem everyCommandHasAnOutcome : Obligations.EveryCommandHasAnOutcome := by
  intro s i hs
  cases hsec : writeSection i with
  | none => exact exec_output_completes hsec s
  | some sec =>
    rcases exec_store_cases hs hsec with ⟨r, -, -, hstore⟩ | ⟨-, hnoop⟩
    · exact ⟨_, hstore⟩
    · exact ⟨_, hnoop⟩

/-! ### What a step may answer (60_exceptions R149, R151) -/

/-- A next state, or a refusal for one of the three reasons of 60_exceptions R151. -/
inductive Answers : Outcome → Prop
  | next (t : State) : Answers (.next t)
  | reservedOpcode : Answers (.refused .reservedOpcode)
  | reservedField : Answers (.refused .reservedField)
  | invalidConfig : Answers (.refused .invalidConfig)

theorem answers_of_completes {o : Outcome} (h : ∃ t, o = .next t) : Answers o := by
  obtain ⟨t, rfl⟩ := h
  exact .next t

theorem Answers.not_faults {o : Outcome} (h : Answers o) : ¬ Faults o := by
  rintro ⟨r, rfl⟩
  cases h

theorem Answers.refusal {o : Outcome} {r : Refusal} (h : Answers o) (ho : o = .refused r) :
    r = .reservedOpcode ∨ r = .reservedField ∨ r = .invalidConfig := by
  subst ho
  cases h with
  | reservedOpcode => exact .inl rfl
  | reservedField => exact .inr (.inl rfl)
  | invalidConfig => exact .inr (.inr rfl)

/-- The decoder gives the two refusals of a packet; a decoded command completes or begins its output. -/
theorem accept_answers {s : State} (got : List Byte) (hs : BufferOk s) : Answers (accept got s) := by
  simp only [accept]
  cases decode (got ++ s.port) with
  | cmd i rest => exact answers_of_completes (everyCommandHasAnOutcome ((s.setPort rest).setCp .ready) i hs)
  | more => exact .next _
  | reservedOpcode => exact .reservedOpcode
  | reservedField => exact .reservedField

/-- An output command in progress goes on: only a drive step reads a cell and a select code, and the invariant has both exist. -/
theorem run_completes_of_outputBusy {s : State} (hs : s.Inv) (hbusy : OutputBusy s) : ∃ t, run s = .next t := by
  obtain ⟨hregs, -, -, hok⟩ := hs
  obtain ⟨a, hcp, hout⟩ := hbusy
  simp only [run, hcp]
  cases a with
  | payload got => exact absurd rfl (hout got)
  | guard => rcases guardStep_cases s with ⟨-, hstep⟩ | ⟨-, hstep⟩ <;> exact ⟨_, hstep⟩
  | drive =>
    obtain ⟨-, hmode, hcell, -⟩ := (cpOk_drive hcp).mp hok
    exact ⟨_, driveStep_of_cellFrame (cellFrame_eq_muxFrame hregs hmode hcell)⟩
  | slice t0 => rcases sliceStep_cases t0 s with ⟨-, hstep⟩ | ⟨-, -, hstep⟩ | ⟨-, -, hstep⟩ <;> exact ⟨_, hstep⟩
  | hold t0 dur => rcases holdStep_cases t0 dur s with ⟨-, hstep⟩ | ⟨-, hstep⟩ <;> exact ⟨_, hstep⟩

theorem run_answers {s : State} (hs : s.Inv) : Answers (run s) := by
  rcases accepts_or_outputBusy s with ⟨got, hacc⟩ | hbusy
  · obtain ⟨hregs, -, hcells, -⟩ := hs
    exact run_of_accepts hacc ▸ accept_answers got ⟨hregs, hcells⟩
  · exact answers_of_completes (run_completes_of_outputBusy hs hbusy)

/-- A reset that cuts into a step changes its next state only. -/
theorem assertReset_answers {s : State} (h : Answers (run s)) (after : Nat) : Answers (assertReset after s) := by
  cases after with
  | zero => exact .next _
  | succ k =>
    cases hrun : run s with
    | next t =>
      simp only [assertReset, hrun]
      exact .next _
    | fault r => exact absurd ⟨r, hrun⟩ h.not_faults
    | refused r =>
      simp only [assertReset, hrun]
      exact hrun ▸ h

theorem releaseReset_answers (s : State) : Answers (releaseReset s) := by
  simp only [releaseReset]
  split
  · exact .next _
  · exact .invalidConfig

theorem step_answers {s : State} (hs : s.Inv) : Answers (step s) := by
  rcases step_cases s with ⟨-, -, hstep⟩ | ⟨k, -, -, hstep⟩ | ⟨-, -, hstep⟩ | ⟨-, -, hstep⟩ <;> rw [hstep]
  · exact .next s
  · exact assertReset_answers (run_answers hs) k
  · exact releaseReset_answers s
  · exact run_answers hs

/-- Settles O39: a step answers a next state or one of the three refusals, in reset and out of it. -/
theorem noStepFaults : Obligations.NoStepFaults := by
  intro s hs
  have hanswers := step_answers hs
  exact ⟨hanswers.not_faults, fun _ => hanswers.refusal⟩

end Sys2Proof.Machine

namespace Sys2Proof.Machine

/-! ### A step by the reset input (60_exceptions R153, 70_reset R164, R165) -/

section
variable {s : State} {k : Nat}

theorem step_of_asserted (hreset : s.resetIn = .asserted k) (hin : s.inReset = false) : step s = assertReset k s := by
  simp [step, stepWithReset, hreset, hin]

theorem step_of_held (hreset : s.resetIn = .asserted k) (hin : s.inReset = true) : step s = .next s := by
  simp [step, stepWithReset, hreset, hin]

theorem step_of_released (hreset : s.resetIn = .released) (hin : s.inReset = true) (hvalid : configValid s.cfgIn s.glyph = true) :
    step s = .next s.boot := by
  simp [step, stepWithReset, releaseReset, hreset, hin, hvalid]

end

theorem steps_of_fixed {s : State} (h : step s = .next s) (n : Nat) : steps n s = .next s := by
  induction n with
  | zero => rfl
  | succ n ih => exact steps_succ_eq_next_iff.mpr ⟨s, h, ih⟩

/-! ### The time input of a step that reset cuts (70_reset R165, log entry 4) -/

theorem any_isRead_iff (es : List Event) : es.any isRead = true ↔ ∃ tm, Event.now tm ∈ es := by
  rw [List.any_eq_true]
  constructor
  · rintro ⟨e, hmem, hread⟩
    cases e with
    | now tm => exact ⟨tm, hmem⟩
    | _ => cases hread
  · rintro ⟨tm, hmem⟩
    exact ⟨_, hmem, rfl⟩

/-- The two states have the same time input. -/
def SameTime (s t : State) : Prop := t.timeIn = s.timeIn ∧ t.clock = s.clock ∧ t.draws = s.draws

theorem SameTime.refl (s : State) : SameTime s s := ⟨rfl, rfl, rfl⟩

section
variable {n : Nat} {s t : State}

/-- A read among the events kept has used the time input. -/
theorem cutStep_sameTime_of_read {tm : Word32} (h : Event.now tm ∈ (newEvents s t).take n) : SameTime t (cutStep n s t) := by
  rcases cutStep_cases n s t with ⟨-, hcut⟩ | ⟨hnone, -⟩
  · exact hcut ▸ ⟨rfl, rfl, rfl⟩
  · exact absurd ((any_isRead_iff _).mpr ⟨tm, h⟩) (by simp [hnone])

/-- A read that is cut off has not used it. -/
theorem cutStep_sameTime_of_no_read (h : ∀ tm, Event.now tm ∉ (newEvents s t).take n) : SameTime s (cutStep n s t) := by
  rcases cutStep_cases n s t with ⟨hany, -⟩ | ⟨-, hcut⟩
  · obtain ⟨tm, hmem⟩ := (any_isRead_iff _).mp hany
    exact absurd hmem (h tm)
  · exact hcut ▸ ⟨rfl, rfl, rfl⟩

end

/-- Settles O33: with `k = 0` nothing of the step happens; else it is the cut step that enters reset. -/
theorem assertedResetCutsTheCommand : Obligations.AssertedResetCutsTheCommand := by
  intro s u k hreset hin hrun
  have hstep := step_of_asserted hreset hin
  obtain ⟨es, hes⟩ := (runStep_of_run hrun).keeps.trace
  cases k with
  | zero =>
    exact ⟨s.enterReset, es, hstep, rfl, rfl, rfl, hes.symm, by simp, fun _ => SameTime.refl s, fun _ hread => absurd hread (by simp)⟩
  | succ k =>
    have hnew : newEvents s u = es := by simp [newEvents, ← hes]
    subst hnew
    have hcut : step s = .next (cutStep (k + 1) s u).enterReset := by simp only [hstep, assertReset, hrun]
    exact ⟨_, newEvents s u, hcut, rfl, rfl, rfl, hes.symm, by simp, cutStep_sameTime_of_no_read, fun _ => cutStep_sameTime_of_read⟩

/-- Settles O34: a step in reset is the identity, and CMD_READY needs a block out of reset. -/
theorem resetHoldsTheBlock : Obligations.ResetHoldsTheBlock := by
  intro s k n hreset hin
  refine ⟨steps_of_fixed (step_of_held hreset hin) n, ?_⟩
  rw [Bool.eq_false_iff, ne_eq, cmdReady_iff]
  rintro ⟨hout, -⟩
  simp [hin] at hout

theorem outputs_enterReset (s : State) : outputs s.enterReset.trace = outputs s.trace := by
  rw [State.enterReset_trace, outputs_append]
  exact List.append_nil _

/-- Settles O35: assertion enters reset at once, release boots, and the reset mark is the one event of the two steps. -/
theorem resetRecoversFromAnyState : Obligations.ResetRecoversFromAnyState := by
  intro s c hin hvalid
  have hassert : step (s.hostAssertReset 0) = .next (s.hostAssertReset 0).enterReset :=
    step_of_asserted (s := s.hostAssertReset 0) (k := 0) rfl hin
  have hrelease : step ((s.hostAssertReset 0).enterReset.hostReleaseReset c) =
      .next ((s.hostAssertReset 0).enterReset.hostReleaseReset c).boot := step_of_released rfl rfl hvalid
  exact ⟨_, _, hassert, hrelease, rfl, outputs_enterReset (s.hostAssertReset 0), displayed_enterReset (s.hostAssertReset 0)⟩

end Sys2Proof.Machine
